-- ==== Sys2Proof/Word.lean ====
section
/-!
DEFINITION. The word types of the block (00_scope.md R8, R12): every value is an unsigned integer of a stated width.
-/

namespace Sys2Proof

/-- A byte, and the width of each engine register (R8 `REG_WIDTH`, R12). -/
abbrev Byte := BitVec 8

/-- A line id: 8 bits (R8, R12). -/
abbrev LineId := BitVec 8

/-- An operation word: 16 bits (R12, 30_encoding.md R90). -/
abbrev OpWord := BitVec 16

/-- A host integer: `HOST_INT_WIDTH` = 32 bits (R8, R12). -/
abbrev HostInt := BitVec 32

end Sys2Proof
end

