-- ==== Sys2Proof/Syntax.lean ====
section
/-!
DEFINITION. The syntax: the nine operations of spec/opcode_table.json (30_encoding.md R93), their assembler form
(R100), the host program notation (00_scope.md R16), host accesses (R15), and the driver's pseudo-instructions (R101).
-/

namespace Sys2Proof

/-- A line's direction (10_state.md R60): `in` or `out`. -/
inductive Dir where
  | inp
  | out
deriving DecidableEq, Repr, Inhabited

/-- A bit that stands for a level (10_state.md R60): low is 0, high is 1. -/
inductive Level where
  | low
  | high
deriving DecidableEq, Repr, Inhabited

/-- The operations, one constructor per row of the opcode table (30_encoding.md R93). -/
inductive Instr where
  /-- `WR_CTRL imm8` (40_register_access.md R111). -/
  | wrCtrl (imm8 : Byte)
  /-- `RD_CTRL` (R112). -/
  | rdCtrl
  /-- `WR_STATUS imm8` (R113). -/
  | wrStatus (imm8 : Byte)
  /-- `RD_STATUS` (R114). -/
  | rdStatus
  /-- `WR_DATA imm8` (R115). -/
  | wrData (imm8 : Byte)
  /-- `RD_DATA` (R116). -/
  | rdData
  /-- `LINE_DIR line, val` (41_line_control.md R141); `val` = 1 is `out` (30_encoding.md R92). -/
  | lineDir (line : LineId) (dir : Dir)
  /-- `LINE_SET line, val` (R142); `val` = 1 is high (R92). -/
  | lineSet (line : LineId) (level : Level)
  /-- `LINE_GET line` (R143). -/
  | lineGet (line : LineId)
deriving DecidableEq, Repr

/-- A line as the assembler names it: a number, an engine line, or the chip-select line of the
current driver object (R100). -/
inductive LineName where
  | num (line : LineId)
  | sck
  | mosi
  | miso
  | ss
  | cs
deriving DecidableEq, Repr

/-- The assembler syntax of the operations, one constructor per row of R100's table. -/
inductive AsmOp where
  /-- `wr.ctrl imm8` -/
  | wrCtrl (imm8 : Byte)
  /-- `rd.ctrl` -/
  | rdCtrl
  /-- `wr.status imm8` -/
  | wrStatus (imm8 : Byte)
  /-- `rd.status` -/
  | rdStatus
  /-- `wr.data imm8` -/
  | wrData (imm8 : Byte)
  /-- `rd.data` -/
  | rdData
  /-- `dir line, out` and `dir line, in` -/
  | dir (line : LineName) (dir : Dir)
  /-- `set line, hi` and `set line, lo` -/
  | set (line : LineName) (level : Level)
  /-- `get line` -/
  | get (line : LineName)
deriving DecidableEq, Repr

/-- A host access of `n` bytes at an address of the host's data address space (00_scope.md R15
`MemRead(addr, n)` and `MemWrite(addr, n, v)`). -/
inductive Access where
  | read (addr n : Nat)
  | write (addr n : Nat) (v : HostInt)
deriving DecidableEq, Repr

/-- A host variable (00_scope.md R16), by number. -/
abbrev Var := Nat

/-- Host arithmetic on host variables (00_scope.md R16), with operators of R13 on host integers. R16 gives no list of
operators: DESIGN CHOICE (log 31), safe: and, or, complement, and shifts by a constant count, and no selection
`(c ? a : b)` as the program runs. -/
inductive Expr where
  | lit (v : HostInt)
  | var (x : Var)
  | and (a b : Expr)
  | or (a b : Expr)
  | not (a : Expr)
  | shl (a : Expr) (n : Nat)
  | shr (a : Expr) (n : Nat)
deriving DecidableEq, Repr

/-- The three registers a host writes by value (10_state.md R30). -/
inductive RegName where
  | ctrl
  | status
  | data
deriving DecidableEq, Repr

/-- One step of the host program (00_scope.md R16). -/
inductive HostStep where
  /-- An operation by its word, `op`, or with its result bound, `r <- op`. -/
  | op (dst : Option Var) (word : OpWord)
  /-- A write operation whose byte is computed by host arithmetic (the low 8 bits of `e`). -/
  | wr (reg : RegName) (e : Expr)
  /-- `poll`, the busy-wait on the transfer-complete flag (42_driver_operations.md R170). -/
  | poll
  /-- Host arithmetic: `x` takes the value of `e`; it takes no step of the block. -/
  | compute (x : Var) (e : Expr)
  /-- `x <- MemRead(addr, n)` (00_scope.md R15, 20_memory.md R74). R16's list of steps does not name host accesses:
  DESIGN CHOICE (log 32), safe: each is one step, with a constant address and a constant count. -/
  | load (x : Var) (addr n : Nat)
  /-- `MemWrite(addr, n, e)` (R15, 20_memory.md R74), one step with a constant address and a constant count: DESIGN
  CHOICE (log 32), safe; the value is host arithmetic. -/
  | store (addr n : Nat) (e : Expr)
deriving DecidableEq, Repr

/-- The pseudo-instructions (30_encoding.md R101): the driver's operations. Whether an operand may be a host variable is
left open: DESIGN CHOICE (log 27), safe: each operand is a constant, fixed when the sequence is expanded. -/
inductive Pseudo where
  /-- `construct cs` (42_driver_operations.md R160). -/
  | construct (cs : LineId)
  /-- `configure cs, mode, div` (R162); `mode` and `div` are host integers of any width (R161). -/
  | configure (cs : LineId) (mode div : Nat)
  /-- `begin cs` (R167). -/
  | beginTx (cs : LineId)
  /-- `end cs` (R168). -/
  | endTx (cs : LineId)
  /-- `r <- xchg b` (R169). -/
  | xchg (r : Option Var) (b : HostInt)
  /-- `poll` (R170). -/
  | poll
  /-- `r <- xfer24 v` (R171). -/
  | xfer24 (r : Var) (v : HostInt)
  /-- `tx24 v` (R172). -/
  | tx24 (v : HostInt)
deriving DecidableEq, Repr

/-- `configure cs` alone (R101, 42_driver_operations.md R165): `configure cs, 0, 1`. -/
def Pseudo.configureDefault (cs : LineId) : Pseudo := .configure cs 0 1

end Sys2Proof
end

