-- ==== Sys2Proof/Config.lean ====
section
/-!
DEFINITION. What an implementation or the environment fixes: the OPEN parameters of 00_scope.md R8 as plain data,
the records the oracles are asked with (10_state.md R59 to R62), and the free values, constants with no body.
-/

namespace Sys2Proof

/-- The OPEN parameters of 00_scope.md R8 but `LINE_COUNT` (which is the number of records of the line
file): the register addresses, the engine lines' ids and the system clock frequency. Held in the state as
data that no step writes, so a statement about every state is about every platform. DESIGN CHOICE (log 2),
safe. -/
structure Params where
  addrCtrl : Nat
  addrStatus : Nat
  addrData : Nat
  sck : LineId
  mosi : LineId
  miso : LineId
  ss : LineId
  /-- `F_SYS`, in hertz: timing only, no step reads it (R8). DESIGN CHOICE of the unit (log 30), safe. -/
  fSys : Nat
deriving DecidableEq, Repr

/-- R8's informative example values: the ATmega328P data addresses and the Arduino Uno line ids.
DESIGN CHOICE (log 2): they bind no rule and only `State.reset` uses them. R8 gives no example of `F_SYS`: 16 MHz, the
Arduino Uno's, is PRESUMED (log 30). -/
def Params.informative : Params :=
  { addrCtrl := 0x4C, addrStatus := 0x4D, addrData := 0x4E, sck := 13, mosi := 11, miso := 12, ss := 10,
    fSys := 16000000 }

/-- R8's informative example of `LINE_COUNT`. DESIGN CHOICE (log 2). -/
def Params.informativeLineCount : Nat := 20

/-- Who takes a step (00_scope.md R10): the environment takes none. -/
inductive Agent where
  | host
  | engine
deriving DecidableEq, Repr, Inhabited

/-- One record of the line file (10_state.md R60). -/
structure LineRec where
  dir : Dir
  latch : Level
deriving DecidableEq, Repr

/-- The configuration latched at the start of an exchange (10_state.md R59). -/
structure XCfg where
  cpol : Bool
  cpha : Bool
  rate : BitVec 2
  dbl : Bool
deriving DecidableEq, Repr

/-- The result a host operation hands back (00_scope.md R15, 10_state.md R62): none, a byte, or a bit. -/
inductive OpResult where
  | none
  | byte (b : Byte)
  | bit (l : Level)
deriving DecidableEq, Repr

/-- The events of the history `HIST` (10_state.md R62). -/
inductive Event where
  /-- `Op(w, r)`: the operation word `w` was performed with result `r`. -/
  | op (w : OpWord) (r : OpResult)
  /-- `Start(o, x, cs)`: an exchange began; `snap` is the snapshot of every line. -/
  | start (o : Byte) (x : XCfg) (snap : List LineRec)
  /-- `Done(o, i)`: an exchange completed and received `i`. -/
  | done (o i : Byte)
  /-- `Line(l, dir, latch)`: line `l` took that record. -/
  | line (l : LineId) (dir : Dir) (latch : Level)
deriving DecidableEq, Repr

/-- The peripheral oracle (00_scope.md R8, R15): `PERIPHERAL(h, o, c)`, any byte. Free value (log 4). -/
opaque Config.peripheral : List Event → Byte → XCfg → Byte

/-- The environment oracle (00_scope.md R8, R15): `ENV_LEVEL(h, l)`, any level. Free value (log 5). -/
opaque Config.envLevel : List Event → LineId → Level

/-- Who moves next while an exchange is in progress (00_scope.md R10, 20_memory.md R79): the `k`-th free
choice. Free value (log 6). -/
opaque Config.turn : Nat → Agent

/-- What a host read that does not reach the block returns (20_memory.md R74): the `k`-th free
value. Free value (log 14). -/
opaque Config.platformRead : Nat → HostInt

/-- What a host variable that no step has bound holds (00_scope.md R16 gives it no value). Free value (log 13). -/
opaque Config.unboundVar : Nat → HostInt

end Sys2Proof
end

