-- ==== Sys2Proof/Machine/Flags.lean ====
section
/-!
DEFINITION. The fields of `CTRL` (10_state.md R41 to R48) and of `STATUS` (R50 to R54), read from and written into
the register bytes, and the clock-rate and clock-mode tables that no step reads (40_register_access.md R124,
70_reset_and_hazards.md R245, R247).
-/

namespace Sys2Proof.Machine

/-- `CTRL.IE`, bit 7 (10_state.md R42). -/
def ctrlIE (c : Byte) : Bool := c.getLsbD 7

/-- `CTRL.EN`, bit 6 (R43). -/
def ctrlEN (c : Byte) : Bool := c.getLsbD 6

/-- `CTRL.ORD`, bit 5 (R44). -/
def ctrlORD (c : Byte) : Bool := c.getLsbD 5

/-- `CTRL.MSTR`, bit 4 (R45). -/
def ctrlMSTR (c : Byte) : Bool := c.getLsbD 4

/-- `CTRL.CPOL`, bit 3 (R46). -/
def ctrlCPOL (c : Byte) : Bool := c.getLsbD 3

/-- `CTRL.CPHA`, bit 2 (R47). -/
def ctrlCPHA (c : Byte) : Bool := c.getLsbD 2

/-- `CTRL.RATE`, bits 1:0 (R48). -/
def ctrlRATE (c : Byte) : BitVec 2 := c.extractLsb' 0 2

/-- An enabled master: `EN` = 1 and `MSTR` = 1 (R43, R45). -/
def ctrlMaster (c : Byte) : Bool := ctrlEN c && ctrlMSTR c

/-- `STATUS.TC`, bit 7 (R51). -/
def statusTC (st : Byte) : Bool := st.getLsbD 7

/-- `STATUS.DBL`, bit 0 (R54). -/
def statusDBL (st : Byte) : Bool := st.getLsbD 0

/-- `STATUS.TC <- b`, every other bit kept (R51). -/
def statusPutTC (b : Bool) (st : Byte) : Byte := (st &&& 0x7F#8) ||| (if b then 0x80#8 else 0x00#8)

/-- `STATUS.DBL <- b`, every other bit kept (R54; R53: writes of bits 5:1 are ignored). -/
def statusPutDBL (b : Bool) (st : Byte) : Byte := (st &&& 0xFE#8) ||| (if b then 0x01#8 else 0x00#8)

/-- What `RD_STATUS` returns: `TC ++ 0b0 ++ 0b00000 ++ DBL` (R50; `COL` reads 0, R52; reserved bits read 0, R53). -/
def statusRead (st : Byte) : Byte :=
  BitVec.ofBool (statusTC st) ++ 0b0#1 ++ 0b00000#5 ++ BitVec.ofBool (statusDBL st)

/-- The configuration `WR_DATA` latches: `CPOL`, `CPHA`, `RATE` and `DBL` (R59). -/
def liveCfg (c st : Byte) : XCfg :=
  { cpol := ctrlCPOL c, cpha := ctrlCPHA c, rate := ctrlRATE c, dbl := statusDBL st }

/-- The base divisor of a rate value (40_register_access.md R124): 16 for value 1 is the source's; 4, 64 and 128
are the spec's own, from general knowledge (92_eei_decisions.md D33). No step reads it. -/
def baseDivisor (rate : BitVec 2) : Nat :=
  if rate = 0#2 then 4 else if rate = 1#2 then 16 else if rate = 2#2 then 64 else 128

/-- The divisor an exchange runs with (R124): the double-speed modifier halves the base divisor. -/
def divisor (x : XCfg) : Nat := if x.dbl then baseDivisor x.rate / 2 else baseDivisor x.rate

/-- The 3-bit rate selector `dbl ++ rate` (R124). -/
def rateSel (x : XCfg) : BitVec 3 := BitVec.ofBool x.dbl ++ x.rate

/-- The system clock cycles one exchange takes, for the reader only (70_reset_and_hazards.md R245). -/
def cyclesPerByte (x : XCfg) : Nat := 8 * divisor x

/-- The shift clock, `F_SYS / divisor`, in hertz, for the reader only (R245). -/
def shiftClock (p : Params) (x : XCfg) : Rat := p.fSys / divisor x

/-- The clock's idle level (R247, 10_state.md R46), for the reader only. -/
def clockIdle (x : XCfg) : Level := if x.cpol then .high else .low

/-- Whether data is sampled on the leading edge (10_state.md R47), for the reader only. -/
def samplesLeading (x : XCfg) : Bool := !x.cpha

/-- Whether data is sampled on a rising edge (R247): the leading edge rises when the clock idles low. -/
def samplesRising (x : XCfg) : Bool := x.cpol == x.cpha

end Sys2Proof.Machine
end

