-- ==== Sys2Proof/Machine/State.lean ====
section
/-!
DEFINITION. The state of the block (10_state.md), the model's outcomes for misuse (60_exceptions.md R203, R205), and
the state right after reset (70_reset_and_hazards.md R230, R231).
-/

namespace Sys2Proof.Machine

/-- The fault reasons (60_exceptions.md R203), each with the operation word that raised it. Each is safe: the
spec ends the run there, and what the hardware would do is undefined (R201). -/
inductive Fault where
  /-- Raised by `WR_DATA` when the engine is not an enabled master (40_register_access.md R115). Safe. -/
  | unconfigured (w : OpWord)
  /-- Raised by `WR_DATA` during an exchange (R115, R121). Safe. -/
  | writeCollision (w : OpWord)
  /-- Raised by `WR_DATA` when the clock or data-out line is an input (R115). Safe. -/
  | engineLinesNotOutput (w : OpWord)
  /-- Raised by `RD_DATA` during an exchange (R116). Safe. -/
  | readWhileBusy (w : OpWord)
  /-- Raised by `RD_DATA` while `RXB` is empty, that is, no exchange has completed since reset (R116, 10_state.md R57;
  92_eei_decisions.md D11, 93_implementation_defined.md S2). Safe. -/
  | rxEmpty (w : OpWord)
  /-- Raised by `WR_CTRL` and `WR_STATUS` during an exchange (R111, R113). Safe. -/
  | configWhileBusy (w : OpWord)
  /-- Raised by `WR_CTRL` and `LINE_DIR` when an enabled master with `SS_LINE` an input would result
  (R111, 41_line_control.md R141). Safe. -/
  | masterModeNotHeld (w : OpWord)
  /-- Raised by `LINE_DIR` and `LINE_SET` on an engine line during an exchange (R141, R142). Safe. -/
  | lineConflictWhileBusy (w : OpWord)
  /-- Raised by the line operations when the line id is not below `LINE_COUNT` (R140). Safe. -/
  | lineOutOfRange (w : OpWord)
  /-- Answered by any step of a state whose `FAULT` or `REFUSED` mark is set: no agent has a step there
  (00_scope.md R11). A stuck state, no reason of R203; safe. -/
  | stopped
deriving DecidableEq, Repr

/-- The refusal reasons (60_exceptions.md R205), each with the operation word or the access. Each is safe:
the spec gives the form no meaning (R205). -/
inductive Refusal where
  /-- Answered by an arm of `exec` whose operation has no meaning yet: none is left. Safe. -/
  | notModelled (mnemonic : String)
  /-- Answered when a word that spells no operation is performed (30_encoding.md R96, R97). Safe. -/
  | illegalOperation (w : OpWord)
  /-- Answered by `WR_CTRL` when bit 7 of the byte is 1 (40_register_access.md R111). Safe. -/
  | interruptEnable (w : OpWord)
  /-- Answered by `WR_CTRL` when bit 5 of the byte is 1 (R111). Safe. -/
  | lsbFirst (w : OpWord)
  /-- Answered by a host access of more than one byte that touches a register (20_memory.md R73). Safe. -/
  | wideAccess (a : Access)
deriving DecidableEq, Repr

/-- The machine: the block's state (10_state.md), the OPEN parameters, the host's program (00_scope.md
R16), and the inputs from outside. -/
structure State where
  /-- `CTRL` (10_state.md R40). -/
  ctrl : Byte
  /-- `STATUS` (R49, R50): `TC` is bit 7, `DBL` is bit 0. -/
  status : Byte
  /-- `BUSY` (R55). -/
  busy : Bool
  /-- `TXS` (R56). -/
  txs : Byte
  /-- `RXB` (R57): empty, or the byte received by the last completed exchange. -/
  rxb : Option Byte
  /-- `ARMED` (R58). -/
  armed : Bool
  /-- `XCFG` (R59). -/
  xcfg : XCfg
  /-- The line file (R60), one record per line: its length is `LINE_COUNT` (log 3). -/
  lines : List LineRec
  /-- `HIST` (R62), the oldest event first. -/
  hist : List Event
  /-- `FAULT` (R63). -/
  fault : Option Fault
  /-- `REFUSED` (R63). -/
  refused : Option Refusal
  /-- The OPEN parameters (00_scope.md R8); no step writes them (log 2). -/
  params : Params
  /-- The value the last operation handed back to the host (R15, log 16). -/
  result : OpResult
  /-- The host program (R16); no step writes it (log 11). -/
  prog : List HostStep
  /-- The host program index `hpc` (R16). -/
  hpc : Nat
  /-- The host variables (R16) bound so far, by rising number (log 13). -/
  vars : List (Var × HostInt)
  /-- The MODEL's own: the coming answers to "who moves next" during an exchange; when none is left the
  answer is the free value `Config.turn` (log 6). -/
  turns : List Agent
  /-- The MODEL's own: the peripheral's coming answers; when none is left the answer is the free value
  `Config.peripheral` (log 4). -/
  rxInputs : List Byte
  /-- The MODEL's own: the environment's coming levels; when none is left the answer is the free value
  `Config.envLevel` (log 5). -/
  levelInputs : List Level
  /-- The MODEL's own: the index of the next free value of `Config.turn` and `Config.platformRead` (log 6). -/
  draws : Nat
deriving DecidableEq, Repr

/-- A line right after reset (10_state.md R60): an input with latch 0. -/
def resetLine : LineRec := { dir := .inp, latch := .low }

/-- The state right after reset (70_reset_and_hazards.md R231) on a platform with parameters `p` and
`LINE_COUNT` = `n`. `TXS` and `XCFG`, which R231 leaves unspecified, hold zero: DESIGN CHOICE, unsafe (log 7). -/
def State.resetFor (p : Params) (n : Nat) : State :=
  { ctrl := 0x00#8
    status := 0x00#8
    busy := false
    txs := 0x00#8
    rxb := none
    armed := false
    xcfg := { cpol := false, cpha := false, rate := 0#2, dbl := false }
    lines := List.replicate n resetLine
    hist := []
    fault := none
    refused := none
    params := p
    result := .none
    prog := []
    hpc := 0
    vars := []
    turns := []
    rxInputs := []
    levelInputs := []
    draws := 0 }

/-- The state right after reset, with R8's informative parameters: DESIGN CHOICE (log 2). -/
def State.reset : State := State.resetFor Params.informative Params.informativeLineCount

end Sys2Proof.Machine
end

