-- ==== Sys2Proof/Machine/Ops.lean ====
section
/-!
DEFINITION. The named operations over the state that every meaning is written from: the marks and outcomes of
00_scope.md R11, the common rule of 40_register_access.md R110, the line file, the oracles' draws, the flag-clearing
sequence, and the start and the completion of an exchange.
-/

namespace Sys2Proof.Machine

/-- The outcome of a step of this machine. -/
abbrev Out := Host.Outcome State Fault Refusal

/-! ## Marks and outcomes -/

/-- Both marks are empty: only then has any agent a step (00_scope.md R11, R110). -/
def isLive (s : State) : Bool := s.fault.isNone && s.refused.isNone

/-- The state a step leaves (00_scope.md R11): the next state, or the state before with the fault mark or the
refusal mark set and every other field unchanged. A stopped machine stays as it is. -/
def settle (s : State) : Out → State
  | .next t => t
  | .fault .stopped => s
  | .fault f => { s with fault := some f }
  | .refused r => { s with refused := some r }

/-- `raise Fault(reason)` or `refuse(reason)` (00_scope.md R15). -/
inductive Stop where
  | raise (f : Fault)
  | refuse (r : Refusal)
deriving DecidableEq, Repr

/-- The outcome of a `raise` or a `refuse` (R11). -/
def stopOut : Stop → Out
  | .raise f => .fault f
  | .refuse r => .refused r

/-- The first condition that holds, in the order written, ends the step (60_exceptions.md R204); when none
holds the step ends normally in `t`. -/
def firstStop (t : State) : List (Bool × Stop) → Out
  | [] => .next t
  | (c, e) :: rest => if c then stopOut e else firstStop t rest

/-- The common rule of every host operation (40_register_access.md R110, 41_line_control.md R140): enabled only while
both marks are empty, then the conditions in order, then the effect. -/
def perform (s : State) (conds : List (Bool × Stop)) (t : State) : Out :=
  if isLive s then firstStop t conds else .fault .stopped

/-- Go on from a next state with host work; a fault or a refusal stays. -/
def andThen (o : Out) (f : State → State) : Out :=
  match o with
  | .next t => .next (f t)
  | .fault r => .fault r
  | .refused r => .refused r

/-! ## History and result -/

/-- `emit E` (00_scope.md R15, 10_state.md R62). -/
def emit (e : Event) (s : State) : State := { s with hist := s.hist ++ [e] }

/-- The normal end of an operation (R110): `Op(w, r)` is appended, and `r` is handed back to the host. -/
def endOp (w : OpWord) (r : OpResult) (s : State) : State := emit (.op w r) { s with result := r }

/-! ## The line file -/

/-- `LINE_COUNT` (00_scope.md R8): the number of records of the line file (10_state.md R60). -/
def lineCount (s : State) : Nat := s.lines.length

/-- Whether a line id is below `LINE_COUNT` (41_line_control.md R140). -/
def hasLine (s : State) (l : LineId) : Bool := decide (l.toNat < lineCount s)

/-- `LINE[l]` (10_state.md R60). Every operation checks the id first (R140); a line the platform does not have
reads as a reset line (log 23). -/
def lineAt (s : State) (l : LineId) : LineRec := s.lines.getD l.toNat resetLine

/-- `LINE[l].dir`. -/
def lineDirAt (s : State) (l : LineId) : Dir := (lineAt s l).dir

/-- `LINE[l] <- r`, and the event `Line(l, dir, latch)` (41_line_control.md R141, R142). -/
def putLine (l : LineId) (r : LineRec) (s : State) : State :=
  emit (.line l r.dir r.latch) { s with lines := s.lines.set l.toNat r }

/-- The engine is an enabled master (10_state.md R43, R45). -/
def isMaster (s : State) : Bool := ctrlMaster s.ctrl

/-- The clock, data-out and data-in lines (41_line_control.md R142, R144). -/
def isWireLine (s : State) (l : LineId) : Bool := l == s.params.sck || l == s.params.mosi || l == s.params.miso

/-- The engine lines: those three and the third control-role line (00_scope.md R18, 41_line_control.md R141). -/
def isEngineLine (s : State) (l : LineId) : Bool := isWireLine s l || l == s.params.ss

/-! ## The oracles -/

/-- `draw PERIPHERAL(HIST, TXS, XCFG)` (00_scope.md R15, 40_register_access.md R130): the next input from outside,
or a free value. -/
def drawByte (s : State) : Byte × State :=
  match s.rxInputs with
  | b :: rest => (b, { s with rxInputs := rest })
  | [] => (Config.peripheral s.hist s.txs s.xcfg, s)

/-- `draw ENV_LEVEL(HIST, l)` (R15, 10_state.md R61): the next input from outside, or a free value. -/
def drawLevel (l : LineId) (s : State) : Level × State :=
  match s.levelInputs with
  | b :: rest => (b, { s with levelInputs := rest })
  | [] => (Config.envLevel s.hist l, s)

/-- Who moves next while an exchange is in progress (00_scope.md R10): the next input from outside, or a free
value with a fresh index. -/
def drawTurn (s : State) : Agent × State :=
  match s.turns with
  | a :: rest => (a, { s with turns := rest })
  | [] => (Config.turn s.draws, { s with draws := s.draws + 1 })

/-- Whether line `l` drives its latch (10_state.md R61): an output, and not a clock or data-out line that the
enabled master drives (41_line_control.md R145). -/
def drivesLatch (s : State) (l : LineId) : Bool :=
  lineDirAt s l == .out && !((l == s.params.sck || l == s.params.mosi) && isMaster s)

/-- `level(l)` (10_state.md R61), with the state after the draw, if any. -/
def observeLevel (l : LineId) (s : State) : Level × State :=
  if drivesLatch s l then ((lineAt s l).latch, s) else drawLevel l s

/-! ## The engine -/

/-- The second half of the flag-clearing sequence (40_register_access.md R125). -/
def clearIfArmed (s : State) : State :=
  if s.armed then { s with status := statusPutTC false s.status, armed := false } else s

/-- The start of an exchange (40_register_access.md R115): `TXS`, `XCFG` and `BUSY`, and the `Start` event with the
snapshot of every line. -/
def startExchange (v : Byte) (s : State) : State :=
  emit (.start v (liveCfg s.ctrl s.status) s.lines)
    { s with txs := v, xcfg := liveCfg s.ctrl s.status, busy := true }

/-- The completion of an exchange that received `i` (40_register_access.md R130): `RXB`, `TC`, `BUSY`, and the `Done`
event. -/
def completeWith (i : Byte) (s : State) : State :=
  emit (.done s.txs i) { s with rxb := some i, status := statusPutTC true s.status, busy := false }

end Sys2Proof.Machine
end

