-- ==== Sys2Proof/Machine/Engine.lean ====
section
/-!
DEFINITION. The engine's one step, `COMPLETE` (40_register_access.md R130). It is no operation and has no word (30_encoding.md R93).
-/

namespace Sys2Proof.Machine

/-- Whether the engine has a step (R130): an exchange is in progress and both marks are empty. -/
def completeEnabled (s : State) : Bool := s.busy && isLive s

/-- `COMPLETE` (R130): the peripheral answers a byte, and the exchange ends with it. -/
def complete (s : State) : State := completeWith (drawByte s).1 (drawByte s).2

end Sys2Proof.Machine
end

