-- ==== Sys2Proof/WellFormed.lean ====
section
/-!
DEFINITION. Well-formedness: which words the formats admit (30_encoding.md R91, R92, R96, R97, said field by field),
which host steps the notation admits (00_scope.md R16), and which parameters R8 admits.
-/

namespace Sys2Proof

/-- Every operand of every operation is admitted as it stands (30_encoding.md R94, R95): the field
types are exactly the encoding's fields, so every instruction term is well formed. A line id not below
`LINE_COUNT` is a well-formed operand (R95): it faults when performed. -/
def Instr.wf : Instr → Bool
  | .wrCtrl _ => true
  | .rdCtrl => true
  | .wrStatus _ => true
  | .rdStatus => true
  | .wrData _ => true
  | .rdData => true
  | .lineDir _ _ => true
  | .lineSet _ _ => true
  | .lineGet _ => true

/-- The opcode, bits 15:12 (R90). -/
def wordOp (w : OpWord) : Nat := (w.extractLsb' 12 4).toNat

/-- Opcodes 0x1 to 0x9 are assigned; 0x0 and 0xA to 0xF are reserved (R96). -/
def wordOpAssigned (w : OpWord) : Bool := 1 ≤ wordOp w && wordOp w ≤ 9

/-- Format R's `z4` (bits 11:8) must be 0 (R91, R97). -/
def wordZ4 (w : OpWord) : Bool := !(1 ≤ wordOp w && wordOp w ≤ 6) || w.extractLsb' 8 4 == 0

/-- A read's `imm8` (bits 7:0) must be 0 (R91, R97). -/
def wordReadImm (w : OpWord) : Bool :=
  !(wordOp w == 2 || wordOp w == 4 || wordOp w == 6) || w.extractLsb' 0 8 == 0

/-- Format L's `z3` (bits 3:1) must be 0 (R92, R97). -/
def wordZ3 (w : OpWord) : Bool := !(7 ≤ wordOp w && wordOp w ≤ 9) || w.extractLsb' 1 3 == 0

/-- `LINE_GET`'s `val` (bit 0) must be 0 (R92, R97). -/
def wordGetVal (w : OpWord) : Bool := !(wordOp w == 9) || w.extractLsb' 0 1 == 0

/-- The words that spell an operation (R96, R97). -/
def wordLegal (w : OpWord) : Bool :=
  wordOpAssigned w && wordZ4 w && wordReadImm w && wordZ3 w && wordGetVal w

/-- A host step of the notation (00_scope.md R16): only an operation that returns a value binds a
variable, a word spells an operation, and an access has at least one byte. -/
def HostStep.wf : HostStep → Bool
  | .op dst w => wordLegal w && (dst.isNone || wordOp w == 2 || wordOp w == 4 || wordOp w == 6 || wordOp w == 9)
  | .wr _ _ => true
  | .poll => true
  | .compute _ _ => true
  | .load _ _ n => 1 ≤ n
  | .store _ n _ => 1 ≤ n

/-- The three register addresses are distinct (00_scope.md R8, 20_memory.md R77). -/
def Params.addrsDistinct (p : Params) : Bool :=
  p.addrCtrl != p.addrStatus && p.addrCtrl != p.addrData && p.addrStatus != p.addrData

/-- The four engine lines are distinct (R8). -/
def Params.linesDistinct (p : Params) : Bool :=
  p.sck != p.mosi && p.sck != p.miso && p.sck != p.ss && p.mosi != p.miso && p.mosi != p.ss && p.miso != p.ss

/-- `LINE_COUNT` is 1 to 256 (R8). -/
def lineCountOk (n : Nat) : Bool := 1 ≤ n && n ≤ 256

/-- The four engine lines are below `LINE_COUNT` (R8). -/
def Params.linesBelow (p : Params) (n : Nat) : Bool :=
  p.sck.toNat < n && p.mosi.toNat < n && p.miso.toNat < n && p.ss.toNat < n

/-- The parameters that R8 admits, with `LINE_COUNT` = `n`. -/
def Params.wf (p : Params) (n : Nat) : Bool :=
  p.addrsDistinct && p.linesDistinct && lineCountOk n && p.linesBelow n

end Sys2Proof
end

