-- ==== Sys2Proof/Decode.lean ====
section
/-!
DEFINITION. The decoder and the encoder of 30_encoding.md R90 to R99, and the assembler of R100.
-/

namespace Sys2Proof

/-- The bit that spells a direction: 1 is output (30_encoding.md R92). -/
def dirBit : Dir → BitVec 1
  | .inp => 0#1
  | .out => 1#1

/-- The direction a `val` bit spells (R92). -/
def dirOfBit (b : BitVec 1) : Dir := if b = 1#1 then .out else .inp

/-- The bit that spells a level: 1 is high (R92). -/
def levelBit : Level → BitVec 1
  | .low => 0#1
  | .high => 1#1

/-- The level a `val` bit spells (R92). -/
def levelOfBit (b : BitVec 1) : Level := if b = 1#1 then .high else .low

/-- `imm8`, bits 7:0 of format R (R91). -/
def immField (w : OpWord) : Byte := w.extractLsb' 0 8

/-- `line`, bits 11:4 of format L (R92). -/
def lineField (w : OpWord) : LineId := w.extractLsb' 4 8

/-- `val`, bit 0 of format L (R92). -/
def valField (w : OpWord) : BitVec 1 := w.extractLsb' 0 1

/-- The decoder's one verdict on a word that spells no operation (R96, R97). -/
inductive DecodeError where
  | illegalOperation
deriving DecidableEq, Repr

/-- One row of the opcode map (R93): the words under `mask` equal to `pattern` spell `build` of them. -/
structure OpRow where
  mnemonic : String
  pattern : OpWord
  mask : OpWord
  build : OpWord → Instr

/-- The opcode map of R93, row for row. -/
def opcodeRows : List OpRow :=
  [ ⟨"WR_CTRL", 0x1000#16, 0xFF00#16, fun w => .wrCtrl (immField w)⟩,
    ⟨"RD_CTRL", 0x2000#16, 0xFFFF#16, fun _ => .rdCtrl⟩,
    ⟨"WR_STATUS", 0x3000#16, 0xFF00#16, fun w => .wrStatus (immField w)⟩,
    ⟨"RD_STATUS", 0x4000#16, 0xFFFF#16, fun _ => .rdStatus⟩,
    ⟨"WR_DATA", 0x5000#16, 0xFF00#16, fun w => .wrData (immField w)⟩,
    ⟨"RD_DATA", 0x6000#16, 0xFFFF#16, fun _ => .rdData⟩,
    ⟨"LINE_DIR", 0x7000#16, 0xF00E#16, fun w => .lineDir (lineField w) (dirOfBit (valField w))⟩,
    ⟨"LINE_SET", 0x8000#16, 0xF00E#16, fun w => .lineSet (lineField w) (levelOfBit (valField w))⟩,
    ⟨"LINE_GET", 0x9000#16, 0xF00F#16, fun w => .lineGet (lineField w)⟩ ]

/-- Whether a word is of a row (R93). -/
def rowMatches (w : OpWord) (r : OpRow) : Bool := w &&& r.mask == r.pattern

/-- The first row a word is of. -/
def decodeIn : List OpRow → OpWord → Except DecodeError Instr
  | [], _ => .error .illegalOperation
  | r :: rs, w => if rowMatches w r then .ok (r.build w) else decodeIn rs w

/-- The decoder, total on every 16-bit word (R98). -/
def decode (w : OpWord) : Except DecodeError Instr := decodeIn opcodeRows w

/-- The encoder: the fields of formats R and L put side by side (R91, R92), opcodes as in R93. -/
def encode : Instr → OpWord
  | .wrCtrl v => 0x1#4 ++ 0x0#4 ++ v
  | .rdCtrl => 0x2#4 ++ 0x0#4 ++ 0x00#8
  | .wrStatus v => 0x3#4 ++ 0x0#4 ++ v
  | .rdStatus => 0x4#4 ++ 0x0#4 ++ 0x00#8
  | .wrData v => 0x5#4 ++ 0x0#4 ++ v
  | .rdData => 0x6#4 ++ 0x0#4 ++ 0x00#8
  | .lineDir l d => 0x7#4 ++ l ++ 0x0#3 ++ dirBit d
  | .lineSet l v => 0x8#4 ++ l ++ 0x0#3 ++ levelBit v
  | .lineGet l => 0x9#4 ++ l ++ 0x0#3 ++ 0x0#1

/-- The line id a name stands for (R100); `cs` is the driver object's chip-select line. -/
def lineIdOf (p : Params) (cs : LineId) : LineName → LineId
  | .num l => l
  | .sck => p.sck
  | .mosi => p.mosi
  | .miso => p.miso
  | .ss => p.ss
  | .cs => cs

/-- The assembler (R100): each word a sum of fields that do not overlap. -/
def assemble (p : Params) (cs : LineId) : AsmOp → OpWord
  | .wrCtrl v => 0x1000#16 + v.setWidth 16
  | .rdCtrl => 0x2000#16
  | .wrStatus v => 0x3000#16 + v.setWidth 16
  | .rdStatus => 0x4000#16
  | .wrData v => 0x5000#16 + v.setWidth 16
  | .rdData => 0x6000#16
  | .dir l d => 0x7000#16 + ((lineIdOf p cs l).setWidth 16 <<< 4) + (dirBit d).setWidth 16
  | .set l v => 0x8000#16 + ((lineIdOf p cs l).setWidth 16 <<< 4) + (levelBit v).setWidth 16
  | .get l => 0x9000#16 + ((lineIdOf p cs l).setWidth 16 <<< 4)

/-- The operation an assembler line spells, its names resolved (R100). -/
def asmInstr (p : Params) (cs : LineId) : AsmOp → Instr
  | .wrCtrl v => .wrCtrl v
  | .rdCtrl => .rdCtrl
  | .wrStatus v => .wrStatus v
  | .rdStatus => .rdStatus
  | .wrData v => .wrData v
  | .rdData => .rdData
  | .dir l d => .lineDir (lineIdOf p cs l) d
  | .set l v => .lineSet (lineIdOf p cs l) v
  | .get l => .lineGet (lineIdOf p cs l)

/-- The host's question about a table row: the instruction an operation whose `nbits` bits are `w`
decodes to. Every operation is one 16-bit word (R90) with no byte order (20_memory.md R72), so the bits
above `nbits` are 0 and anything that does not fit in one word spells no operation. -/
def decodeTableWord (nbits w : Nat) : Option Instr :=
  if w % 2 ^ nbits < 2 ^ 16 then (decode (BitVec.ofNat 16 (w % 2 ^ nbits))).toOption else none

end Sys2Proof
end

