-- ==== Sys2Proof/Machine/LineControl.lean ====
section
/-!
DEFINITION. The three line operations (41_line_control.md R140 to R143), each its rule's pseudocode.
-/

namespace Sys2Proof.Machine

/-- `LINE_DIR line, val` (R141). -/
def execLineDir (l : LineId) (d : Dir) (s : State) : Out :=
  let w := encode (.lineDir l d)
  perform s
    [ (!hasLine s l, .raise (.lineOutOfRange w)),
      (isEngineLine s l && s.busy, .raise (.lineConflictWhileBusy w)),
      (l == s.params.ss && d == .inp && isMaster s, .raise (.masterModeNotHeld w)) ]
    (putLine l { lineAt s l with dir := d } (endOp w .none s))

/-- `LINE_SET line, val` (R142). -/
def execLineSet (l : LineId) (v : Level) (s : State) : Out :=
  let w := encode (.lineSet l v)
  perform s
    [ (!hasLine s l, .raise (.lineOutOfRange w)),
      (isWireLine s l && s.busy, .raise (.lineConflictWhileBusy w)) ]
    (putLine l { lineAt s l with latch := v } (endOp w .none s))

/-- `LINE_GET line` (R143): the level is drawn with the history before this operation's event (log 18). -/
def execLineGet (l : LineId) (s : State) : Out :=
  let w := encode (.lineGet l)
  perform s
    [ (!hasLine s l, .raise (.lineOutOfRange w)) ]
    (endOp w (.bit (observeLevel l s).1) (observeLevel l s).2)

end Sys2Proof.Machine
end

