-- ==== Sys2Proof/Machine/RegisterAccess.lean ====
section
/-!
DEFINITION. The six register operations (40_register_access.md R111 to R116), each its rule's pseudocode: the
conditions in order, then the effect.
-/

namespace Sys2Proof.Machine

/-- `WR_CTRL imm8` (R111). -/
def execWrCtrl (v : Byte) (s : State) : Out :=
  let w := encode (.wrCtrl v)
  perform s
    [ (ctrlIE v, .refuse (.interruptEnable w)),
      (ctrlORD v, .refuse (.lsbFirst w)),
      (s.busy, .raise (.configWhileBusy w)),
      (ctrlMaster v && lineDirAt s s.params.ss == .inp, .raise (.masterModeNotHeld w)) ]
    { endOp w .none s with ctrl := v }

/-- `RD_CTRL` (R112). -/
def execRdCtrl (s : State) : Out :=
  perform s [] (endOp (encode .rdCtrl) (.byte s.ctrl) s)

/-- `WR_STATUS imm8` (R113): only bit 0 of the byte is used. -/
def execWrStatus (v : Byte) (s : State) : Out :=
  let w := encode (.wrStatus v)
  perform s
    [ (s.busy, .raise (.configWhileBusy w)) ]
    { endOp w .none s with status := statusPutDBL (v.getLsbD 0) s.status }

/-- `RD_STATUS` (R114): a read that returns `TC` = 1 arms the flag-clearing sequence. -/
def execRdStatus (s : State) : Out :=
  perform s []
    { endOp (encode .rdStatus) (.byte (statusRead s.status)) s with armed := s.armed || statusTC s.status }

/-- `WR_DATA imm8` (R115): starts an exchange. -/
def execWrData (v : Byte) (s : State) : Out :=
  let w := encode (.wrData v)
  perform s
    [ (s.busy, .raise (.writeCollision w)),
      (!ctrlEN s.ctrl || !ctrlMSTR s.ctrl, .raise (.unconfigured w)),
      (lineDirAt s s.params.sck == .inp || lineDirAt s s.params.mosi == .inp, .raise (.engineLinesNotOutput w)) ]
    (startExchange v (clearIfArmed (endOp w .none s)))

/-- `RD_DATA` (R116). An empty `RXB` is the spec's own value of that field (10_state.md R57), and R116's pseudocode raises
`RxEmpty` there (60_exceptions.md R203, 93_implementation_defined.md S2), so no byte of it is ever returned. -/
def execRdData (s : State) : Out :=
  let w := encode .rdData
  perform s
    [ (s.busy, .raise (.readWhileBusy w)),
      (s.rxb.isNone, .raise (.rxEmpty w)) ]
    (clearIfArmed (endOp w (.byte (s.rxb.getD 0x00#8)) s))

end Sys2Proof.Machine
end

