-- ==== Sys2Proof/Machine/Dispatch.lean ====
section
/-!
DEFINITION. One arm per operation (30_encoding.md R93).
-/

namespace Sys2Proof.Machine

def exec (i : Instr) (s : State) : Host.Outcome State Fault Refusal :=
  match i with
  | .wrCtrl imm8 => Sys2Proof.Machine.execWrCtrl imm8 s
  | .rdCtrl => Sys2Proof.Machine.execRdCtrl s
  | .wrStatus imm8 => Sys2Proof.Machine.execWrStatus imm8 s
  | .rdStatus => Sys2Proof.Machine.execRdStatus s
  | .wrData imm8 => Sys2Proof.Machine.execWrData imm8 s
  | .rdData => Sys2Proof.Machine.execRdData s
  | .lineDir line dir => Sys2Proof.Machine.execLineDir line dir s
  | .lineSet line level => Sys2Proof.Machine.execLineSet line level s
  | .lineGet line => Sys2Proof.Machine.execLineGet line s

end Sys2Proof.Machine
end

