-- ==== Sys2Proof/Machine/Operands.lean ====
section
/-!
DEFINITION. The operands of host steps: host variables and host arithmetic (00_scope.md R13, R16), the byte a write
takes from a host integer, and the value a result gives a host variable.
-/

namespace Sys2Proof.Machine

/-- The value of a host variable in a list of bindings; a variable nothing has bound is a free value (log 13). -/
def lookupVar (x : Var) : List (Var × HostInt) → HostInt
  | [] => Config.unboundVar x
  | (y, v) :: rest => if x = y then v else lookupVar x rest

/-- Bind a variable, keeping the list in rising order with no repeats. -/
def insertVar (x : Var) (v : HostInt) : List (Var × HostInt) → List (Var × HostInt)
  | [] => [(x, v)]
  | (y, u) :: rest =>
    if x < y then (x, v) :: (y, u) :: rest
    else if x = y then (x, v) :: rest
    else (y, u) :: insertVar x v rest

/-- The canonical form of the bindings: numbers strictly rising. -/
def varsWf : List (Var × HostInt) → Bool
  | [] => true
  | [_] => true
  | (x, _) :: (y, v) :: rest => decide (x < y) && varsWf ((y, v) :: rest)

/-- `x <- v` for a host variable (00_scope.md R16). -/
def setVar (x : Var) (v : HostInt) (s : State) : State := { s with vars := insertVar x v s.vars }

/-- The value of a host variable. -/
def getVar (x : Var) (s : State) : HostInt := lookupVar x s.vars

/-- Host arithmetic (00_scope.md R13): bitwise operators and logical shifts, every variable of 32 bits (log 33). -/
def evalExpr (s : State) : Expr → HostInt
  | .lit v => v
  | .var x => getVar x s
  | .and a b => evalExpr s a &&& evalExpr s b
  | .or a b => evalExpr s a ||| evalExpr s b
  | .not a => ~~~ evalExpr s a
  | .shl a n => evalExpr s a <<< n
  | .shr a n => evalExpr s a >>> n

/-- `trunc_8` of a host integer (R13). -/
def truncByte (v : HostInt) : Byte := v.setWidth 8

/-- A result as the value of the variable bound to it (00_scope.md R16): a byte or a bit, zero-extended to a host integer.
R16 gives such a variable no width: DESIGN CHOICE (log 33), unsafe: it has 32 bits, so its complement is one of 32 bits. -/
def resultInt : OpResult → Option HostInt
  | .none => none
  | .byte b => some (b.setWidth 32)
  | .bit l => some ((levelBit l).setWidth 32)

/-- `r <- op` (00_scope.md R16): bind the result just handed back. Without a variable, or without a result,
nothing is bound (log 22). -/
def bindResult (dst : Option Var) (s : State) : State :=
  match dst, resultInt s.result with
  | some x, some v => setVar x v s
  | some _, none => s
  | none, _ => s

/-- `hpc` advances by one after a completed step (00_scope.md R16). -/
def advance (s : State) : State := { s with hpc := s.hpc + 1 }

/-- The operation a write of byte `v` to a register is (20_memory.md R74). -/
def writeInstr : RegName → Byte → Instr
  | .ctrl, v => .wrCtrl v
  | .status, v => .wrStatus v
  | .data, v => .wrData v

end Sys2Proof.Machine
end

