-- ==== Sys2Proof/Machine/HostAccess.lean ====
section
/-!
DEFINITION. Operations by their word (40_register_access.md R110) and host accesses by address (20_memory.md R73, R74).
-/

namespace Sys2Proof.Machine

/-- Perform an operation word (R110): decoded, and refused by name if it spells no operation (30_encoding.md R96, R97). -/
def performWord (w : OpWord) (s : State) : Out :=
  match decode w with
  | .ok i => exec i s
  | .error .illegalOperation => perform s [(true, .refuse (.illegalOperation w))] s

/-- The register at an address, if any (20_memory.md R77). -/
def regAt (p : Params) (a : Nat) : Option RegName :=
  if a = p.addrCtrl then some .ctrl
  else if a = p.addrStatus then some .status
  else if a = p.addrData then some .data
  else none

/-- Whether an access of `n` bytes at `addr` touches address `a`. The spec gives the host's data address space no width
(00_scope.md R8, 20_memory.md R73): DESIGN CHOICE (log 26), unsafe: addresses are unbounded and no access wraps round. -/
def covers (addr n a : Nat) : Bool := decide (addr ≤ a) && decide (a < addr + n)

/-- Whether an access of `n` bytes at `addr` touches a register (R73), no access wrapping round (log 26). -/
def touchesReg (p : Params) (addr n : Nat) : Bool :=
  covers addr n p.addrCtrl || covers addr n p.addrStatus || covers addr n p.addrData

/-- The operation a one-byte read of a register is (R74). -/
def readInstr : RegName → Instr
  | .ctrl => .rdCtrl
  | .status => .rdStatus
  | .data => .rdData

/-- The low `n` bytes of a free value: what a host read that does not reach the block returns (R74, log 14). -/
def platformValue (n : Nat) (v : HostInt) : HostInt := BitVec.ofNat 32 (v.toNat % 2 ^ (8 * n))

/-- `x <- MemRead(addr, n)`, less the advance of `hpc`: a wide access that touches a register is refused (R73), a
one-byte access at a register is its read operation (R74), and any other access does not reach the block. -/
def loadAccess (x : Var) (addr n : Nat) (s : State) : Out :=
  if touchesReg s.params addr n then
    if n = 1 then
      match regAt s.params addr with
      | some r => andThen (exec (readInstr r) s) (bindResult (some x))
      | none => perform s [] s
    else perform s [(true, .refuse (.wideAccess (.read addr n)))] s
  else
    perform s [] (setVar x (platformValue n (Config.platformRead s.draws)) { s with draws := s.draws + 1 })

/-- `MemWrite(addr, n, v)`, less the advance of `hpc` (R73, R74): a one-byte write takes the low byte of `v` (log 15). -/
def storeAccess (addr n : Nat) (v : HostInt) (s : State) : Out :=
  if touchesReg s.params addr n then
    if n = 1 then
      match regAt s.params addr with
      | some r => exec (writeInstr r (truncByte v)) s
      | none => perform s [] s
    else perform s [(true, .refuse (.wideAccess (.write addr n v)))] s
  else perform s [] s

end Sys2Proof.Machine
end

