-- ==== Sys2Proof/Machine/Program.lean ====
section
/-!
DEFINITION. The host program (00_scope.md R16), and which agent takes the next step (R10, 20_memory.md R79).
-/

namespace Sys2Proof.Machine

/-- The next step of the host program, if any is left (00_scope.md R16). -/
def fetch (s : State) : Option HostStep := (s.prog.drop s.hpc).head?

/-- The end of one iteration of `poll` (42_driver_operations.md R170): bit 7 of the status just read ends the poll,
and `hpc` is held until then (10_state.md R34). The `s` of R170 is tested and kept nowhere: DESIGN CHOICE (log 28):
`poll` binds no variable of the program. -/
def pollNext (s : State) : State :=
  match s.result with
  | .byte b => if b.getLsbD 7 then advance s else s
  | .none => s
  | .bit _ => s

/-- One host step (00_scope.md R16): `hpc` advances by one after a completed step. -/
def runHostStep (h : HostStep) (s : State) : Out :=
  match h with
  | .op dst w => andThen (performWord w s) (fun t => advance (bindResult dst t))
  | .wr r e => andThen (exec (writeInstr r (truncByte (evalExpr s e))) s) advance
  | .poll => andThen (exec .rdStatus s) pollNext
  | .compute x e => perform s [] (advance (setVar x (evalExpr s e) s))
  | .load x addr n => andThen (loadAccess x addr n s) advance
  | .store addr n e => andThen (storeAccess addr n (evalExpr s e) s) advance

/-- The host's turn: its next step; a host whose program has ended waits and changes nothing (log 12). -/
def hostTurn (s : State) : Out :=
  match fetch s with
  | some h => runHostStep h s
  | none => perform s [] s

/-- One step of the machine: none once a mark is set (00_scope.md R11); while an exchange is in progress either
the engine or the host moves (R10, R79), and otherwise the host does. -/
def nextStep (s : State) : Out :=
  if isLive s then
    if s.busy then
      match (drawTurn s).1 with
      | .engine => .next (complete (drawTurn s).2)
      | .host => hostTurn (drawTurn s).2
    else hostTurn s
  else .fault .stopped

/-- A host program with step `h` at index `k`; shorter programs are filled with host steps that are passed over. -/
def putStep (h : HostStep) : Nat → List HostStep → List HostStep
  | 0, [] => [h]
  | 0, _ :: rest => h :: rest
  | k + 1, [] => .compute 0 (.lit 0) :: putStep h k []
  | k + 1, g :: rest => g :: putStep h k rest

/-- Load a host program, to run from `hpc` = 0 (70_reset_and_hazards.md R232, log 11). -/
def loadProgram (prog : List HostStep) (s : State) : State := { s with prog := prog, hpc := 0 }

/-- The state with the operation word at `hpc`, and the host to move next if an exchange is in progress (log 11). -/
def placeWord (s : State) (nbits w : Nat) : State :=
  { s with
    prog := putStep (.op none (BitVec.ofNat 16 (w % 2 ^ nbits))) s.hpc s.prog
    turns := if s.busy then .host :: s.turns else s.turns }

end Sys2Proof.Machine
end

