-- ==== Sys2Proof/Machine/Step.lean ====
section
/-!
DEFINITION. One step of the machine, and where the host places an operation for the next step.
-/

namespace Sys2Proof.Machine

/-- One step of the machine (00_scope.md R10, R11): `nextStep`. -/
def step (s : State) : Host.Outcome State Fault Refusal := Sys2Proof.Machine.nextStep s

/-- The state whose next step performs the operation with bits `w` (log 11): `placeWord`. -/
def State.withFetchWord (s : State) (nbits w : Nat) : State := Sys2Proof.Machine.placeWord s nbits w

end Sys2Proof.Machine
end

