-- ==== Sys2Proof/Machine/Driver.lean ====
section
/-!
DEFINITION. The driver's operations as fixed sequences of host steps (42_driver_operations.md R160 to R174).
-/

namespace Sys2Proof.Machine

/-- `s` of R162. The spec gives the sequences' own variables no scope: DESIGN CHOICE (log 28), unsafe: this one and
`r2`, `r1`, `r0` of R171 are the program's variables 0 to 3. -/
def varS : Var := 0

/-- `r2` of R171, one of the program's variables: DESIGN CHOICE (log 28). -/
def varR2 : Var := 1

/-- `r1` of R171, one of the program's variables: DESIGN CHOICE (log 28). -/
def varR1 : Var := 2

/-- `r0` of R171, one of the program's variables: DESIGN CHOICE (log 28). -/
def varR0 : Var := 3

/-- `m = mode & 0x3` (R161). -/
def maskMode (mode : Nat) : BitVec 2 := BitVec.ofNat 2 mode

/-- `d = div & 0x7` (R161). -/
def maskDiv (div : Nat) : BitVec 3 := BitVec.ofNat 3 div

/-- The configuration word (R163): `IE EN ORD MSTR CPOL CPHA RATE`. -/
def ctrlWord (m : BitVec 2) (d : BitVec 3) : Byte :=
  0b0#1 ++ 0b1#1 ++ 0b0#1 ++ 0b1#1 ++ m.extractLsb' 1 1 ++ m.extractLsb' 0 1 ++ d.extractLsb' 0 2

/-- The double-speed update (R164) of the status read into `s`. -/
def dblExpr (d : BitVec 3) : Expr :=
  if d.getLsbD 2 then .or (.var varS) (.lit 0x01#32) else .and (.var varS) (.lit 0xFE#32)

/-- Byte `k` of a 24-bit word: `(v >> 8 * k) & 0xFF` (R171, R173). -/
def wordByte (v : HostInt) (k : Nat) : Byte := truncByte ((v >>> (8 * k)) &&& 0xFF#32)

/-- The reassembly of R171 and R174: `(r2 << 16) | (r1 << 8) | r0`. -/
def joinExpr : Expr := .or (.or (.shl (.var varR2) 16) (.shl (.var varR1) 8)) (.var varR0)

/-- An assembler line as a host step. -/
def asmStep (p : Params) (cs : LineId) (a : AsmOp) : HostStep := .op none (assemble p cs a)

/-- `configure cs, mode, div` (R162), in the order the rule lists. -/
def configureSteps (p : Params) (cs : LineId) (mode div : Nat) : List HostStep :=
  [ asmStep p cs (.dir .cs .out),
    asmStep p cs (.set .cs .high),
    asmStep p cs (.dir .sck .out),
    asmStep p cs (.dir .mosi .out),
    asmStep p cs (.dir .ss .out),
    asmStep p cs (.wrCtrl (ctrlWord (maskMode mode) (maskDiv div))),
    .op (some varS) (assemble p cs .rdStatus),
    .wr .status (dblExpr (maskDiv div)) ]

/-- `r <- xchg b` (R169): write, poll, read. -/
def xchgSteps (p : Params) (r : Option Var) (b : Byte) : List HostStep :=
  [ asmStep p 0 (.wrData b), .poll, .op r (assemble p 0 .rdData) ]

/-- `r <- xfer24 v` (R171): three exchanges, most-significant byte first, and the reassembly. -/
def xfer24Steps (p : Params) (r : Var) (v : HostInt) : List HostStep :=
  xchgSteps p (some varR2) (wordByte v 2) ++ xchgSteps p (some varR1) (wordByte v 1)
    ++ xchgSteps p (some varR0) (wordByte v 0) ++ [.compute r joinExpr]

/-- `tx24 v` (R172): the same exchanges, their results discarded. -/
def tx24Steps (p : Params) (v : HostInt) : List HostStep :=
  xchgSteps p none (wordByte v 2) ++ xchgSteps p none (wordByte v 1) ++ xchgSteps p none (wordByte v 0)

/-- The expansion of a pseudo-instruction (30_encoding.md R101). -/
def expand (p : Params) : Pseudo → List HostStep
  | .construct _ => []
  | .configure cs mode div => configureSteps p cs mode div
  | .beginTx cs => [asmStep p cs (.set .cs .low)]
  | .endTx cs => [asmStep p cs (.set .cs .high)]
  | .xchg r b => xchgSteps p r (truncByte b)
  | .poll => [.poll]
  | .xfer24 r v => xfer24Steps p r v
  | .tx24 v => tx24Steps p v

/-- A host program of pseudo-instructions, expanded in order. -/
def expandAll (p : Params) (ps : List Pseudo) : List HostStep := ps.flatMap (expand p)

end Sys2Proof.Machine
end

