-- ==== Sys2Proof/Safety.lean ====
section
/-!
DEFINITION. What claims are stated in: the invariant of 10_state.md R64, the run with its marks (00_scope.md R11), the premise
`ENGINE_LIVE` (R8, 40_register_access.md R131), and what the history says (10_state.md R62, 42_driver_operations.md R176).
-/

namespace Sys2Proof.Machine

/-- The invariant of 10_state.md R64, with R59's clause that `XCFG` equals the live configuration during an exchange. -/
structure Inv (s : State) : Prop where
  armed_tc : s.armed = true → statusTC s.status = true
  master_ss : isMaster s = true → lineDirAt s s.params.ss = .out
  busy_master : s.busy = true → isMaster s = true
  busy_sck : s.busy = true → lineDirAt s s.params.sck = .out
  busy_mosi : s.busy = true → lineDirAt s s.params.mosi = .out
  busy_xcfg : s.busy = true → s.xcfg = liveCfg s.ctrl s.status
  ie_zero : ctrlIE s.ctrl = false
  ord_zero : ctrlORD s.ctrl = false
  status_reserved : s.status &&& 0x7E#8 = 0x00#8

/-- `k` steps with the marks of 00_scope.md R11: a fault or a refusal sets its mark, and then nothing moves. -/
def runState : Nat → State → State
  | 0, s => s
  | k + 1, s => runState k (settle s (step s))

/-- The next `k` answers to "who moves next" during exchanges, from the inputs or from the free value (log 6). -/
def comingTurns : Nat → State → List Agent
  | 0, _ => []
  | k + 1, s => (drawTurn s).1 :: comingTurns k (drawTurn s).2

/-- `ENGINE_LIVE` (00_scope.md R8, 40_register_access.md R131), for the runs from `s`: every exchange in progress is
eventually ended. A premise of claims; nothing in the machine assumes it. R131's sentence (every state with `BUSY` = 1 is
followed by a `COMPLETE`) excludes a run that faults or is refused during an exchange, its gloss (weak fairness) does
not: DESIGN CHOICE (log 29), safe: the sentence is taken, so claims under this premise do not speak of such runs. -/
def EngineLive (s : State) : Prop :=
  ∀ k t, Host.Core.run core k s = .next t → t.busy = true →
    ∃ m u, Host.Core.run core m t = .next u ∧ u.busy = false

/-- What the block holds, less its history and marks (10_state.md R30 to R60). -/
structure BlockView where
  ctrl : Byte
  status : Byte
  busy : Bool
  txs : Byte
  rxb : Option Byte
  armed : Bool
  xcfg : XCfg
  lines : List LineRec
deriving DecidableEq, Repr

/-- The block's view of a state. -/
def viewOf (s : State) : BlockView :=
  { ctrl := s.ctrl, status := s.status, busy := s.busy, txs := s.txs, rxb := s.rxb, armed := s.armed,
    xcfg := s.xcfg, lines := s.lines }

/-- What an operation word in the history says happened to the registers. -/
def replayOp (b : BlockView) (w : OpWord) : BlockView :=
  match decode w with
  | .ok (.wrCtrl v) => { b with ctrl := v }
  | .ok (.wrStatus v) => { b with status := statusPutDBL (v.getLsbD 0) b.status }
  | .ok .rdStatus => { b with armed := b.armed || statusTC b.status }
  | .ok (.wrData _) => if b.armed then { b with status := statusPutTC false b.status, armed := false } else b
  | .ok .rdData => if b.armed then { b with status := statusPutTC false b.status, armed := false } else b
  | _ => b

/-- What one event of the history says happened (10_state.md R62). -/
def replayEvent (b : BlockView) : Event → BlockView
  | .op w _ => replayOp b w
  | .start o x _ => { b with txs := o, xcfg := x, busy := true }
  | .done _ i => { b with rxb := some i, status := statusPutTC true b.status, busy := false }
  | .line l d v => { b with lines := b.lines.set l.toNat { dir := d, latch := v } }

/-- The outgoing bytes of the exchanges of a history, in order. -/
def startBytes : List Event → List Byte
  | [] => []
  | .start o _ _ :: rest => o :: startBytes rest
  | _ :: rest => startBytes rest

/-- The bytes received by the exchanges of a history, in order. -/
def doneBytes : List Event → List Byte
  | [] => []
  | .done _ i :: rest => i :: doneBytes rest
  | _ :: rest => doneBytes rest

/-- The operation words of a host program's steps, as far as they are given by their words; `poll` reads the status. -/
def stepWords : List HostStep → List OpWord
  | [] => []
  | .op _ w :: rest => w :: stepWords rest
  | .poll :: rest => encode .rdStatus :: stepWords rest
  | _ :: rest => stepWords rest

/-- Whether every exchange of a history began with the line asserted (42_driver_operations.md R176: "A transfer group
is valid only while asserted low", 41_line_control.md R146), a duty of the program. -/
def bracketed (cs : LineId) (h : List Event) : Bool :=
  h.all fun e =>
    match e with
    | .start _ _ snap => snap.getD cs.toNat resetLine == { dir := .out, latch := .low }
    | _ => true

/-- A safe run state: the invariant holds and no mark is set. -/
def Safe (s : State) : Prop := Inv s ∧ isLive s = true

end Sys2Proof.Machine
end

