-- ==== Sys2Proof/Certificates/Slice0/Obligations.lean ====
section
/-!
DEFINITION. The statements about the model, each from the spec rule its docstring names.
-/

open Sys2Proof Sys2Proof.Machine

/-! ## Encoding -/

/-- 30_encoding.md R90 to R93: decoding the word of an operation gives the operation back. -/
def Obligations.DecodeOfEncodeIsIdentity : Prop :=
  ∀ i : Instr, i.wf = true → decode (encode i) = .ok i

/-- 30_encoding.md R93, R97: a word that decodes is exactly the word of the operation it decodes to, so no bit of a word is
ignored. -/
def Obligations.DecodedWordIsTheEncodersWord : Prop :=
  ∀ (w : OpWord) (i : Instr), decode w = .ok i → encode i = w

/-- 30_encoding.md R96, R97: the decoder's verdict is `IllegalOperation` exactly on the words with a reserved opcode or a
must-be-zero field that is not zero, said field by field; and performing such a word is refused. -/
def Obligations.ReservedWordsAreIllegalAndRefused : Prop :=
  ∀ (w : OpWord) (op z4 imm z3 val : Nat),
    op = w.toNat / 2 ^ 12 → z4 = w.toNat / 2 ^ 8 % 2 ^ 4 → imm = w.toNat % 2 ^ 8 →
    z3 = w.toNat / 2 % 2 ^ 3 → val = w.toNat % 2 →
    (decode w = .error .illegalOperation ↔
      op = 0 ∨ 10 ≤ op ∨ (1 ≤ op ∧ op ≤ 6 ∧ z4 ≠ 0) ∨ ((op = 2 ∨ op = 4 ∨ op = 6) ∧ imm ≠ 0) ∨
        (7 ≤ op ∧ op ≤ 9 ∧ z3 ≠ 0) ∨ (op = 9 ∧ val ≠ 0)) ∧
    (decode w = .error .illegalOperation → ∀ s : State, isLive s = true →
      performWord w s = .refused (.illegalOperation w))

/-- 30_encoding.md R98: no two rows match the same word, and a word that matches no row is `IllegalOperation`. -/
def Obligations.EachWordMatchesAtMostOneRow : Prop :=
  opcodeRows.Pairwise (fun a b => ∀ w, ¬ (rowMatches w a = true ∧ rowMatches w b = true)) ∧
  (∀ w, (∀ r ∈ opcodeRows, rowMatches w r = false) → decode w = .error .illegalOperation)

/-- 30_encoding.md R91 to R93 and 95_test_vectors.md 2.1: words written out from the encoding decode as the spec says. -/
def Obligations.SampleWordsDecodeAsTabled : Prop :=
  decode 0x1051#16 = .ok (.wrCtrl 0x51#8) ∧
  decode 0x2000#16 = .ok .rdCtrl ∧
  decode 0x3001#16 = .ok (.wrStatus 0x01#8) ∧
  decode 0x4000#16 = .ok .rdStatus ∧
  decode 0x5012#16 = .ok (.wrData 0x12#8) ∧
  decode 0x6000#16 = .ok .rdData ∧
  decode 0x7FF1#16 = .ok (.lineDir 255#8 .out) ∧
  decode 0x8090#16 = .ok (.lineSet 9#8 .low) ∧
  decode 0x9090#16 = .ok (.lineGet 9#8) ∧
  decode 0x1151#16 = .error .illegalOperation ∧
  decode 0x7093#16 = .error .illegalOperation ∧
  decode 0xA000#16 = .error .illegalOperation

/-- 30_encoding.md R100: the sums of the assembler's table are the words of the operations, whatever the line ids. -/
def Obligations.AssemblerSumsAreTheWords : Prop :=
  ∀ (p : Params) (cs : LineId) (a : AsmOp), assemble p cs a = encode (asmInstr p cs a)

/-! ## Control and status registers -/

/-- 40_register_access.md R111: the conditions of `WR_CTRL` in order, and, where none holds, the byte stored in `CTRL`
and nothing else changed but the history and the result handed back. -/
def Obligations.WrCtrlStoresOrStopsInOrder : Prop :=
  ∀ (v : Byte) (s : State), isLive s = true →
    (v.getLsbD 7 = true →
      exec (.wrCtrl v) s = .refused (.interruptEnable (0x1000#16 + v.setWidth 16))) ∧
    (v.getLsbD 7 = false → v.getLsbD 5 = true →
      exec (.wrCtrl v) s = .refused (.lsbFirst (0x1000#16 + v.setWidth 16))) ∧
    (v.getLsbD 7 = false → v.getLsbD 5 = false → s.busy = true →
      exec (.wrCtrl v) s = .fault (.configWhileBusy (0x1000#16 + v.setWidth 16))) ∧
    (v.getLsbD 7 = false → v.getLsbD 5 = false → s.busy = false → v.getLsbD 6 = true → v.getLsbD 4 = true →
      lineDirAt s s.params.ss = .inp →
      exec (.wrCtrl v) s = .fault (.masterModeNotHeld (0x1000#16 + v.setWidth 16))) ∧
    (v.getLsbD 7 = false → v.getLsbD 5 = false → s.busy = false →
      (v.getLsbD 6 = true → v.getLsbD 4 = true → lineDirAt s s.params.ss = .out) →
      exec (.wrCtrl v) s = .next
        { s with
          ctrl := v
          result := .none
          hist := s.hist ++ [.op (0x1000#16 + v.setWidth 16) .none] })

/-- 40_register_access.md R112: `RD_CTRL` returns `CTRL`, also during an exchange, with no side effect on the block; it
returns 0x00 after reset, and after any operation the byte of that operation if it was a `WR_CTRL`, else what `CTRL`
held; under the invariant its bits 7 and 5 are 0. -/
def Obligations.RdCtrlReturnsTheLastByteWritten : Prop :=
  (∀ s : State, isLive s = true →
    exec .rdCtrl s = .next
      { s with
        result := .byte s.ctrl
        hist := s.hist ++ [.op 0x2000#16 (.byte s.ctrl)] }) ∧
  (∀ (p : Params) (n : Nat), ∃ t, exec .rdCtrl (State.resetFor p n) = .next t ∧ t.result = .byte 0x00#8) ∧
  (∀ (i : Instr) (s t : State), exec i s = .next t →
    ∃ u, exec .rdCtrl t = .next u ∧
      u.result = .byte (match i with | .wrCtrl v => v | _ => s.ctrl)) ∧
  (∀ (s t : State) (r : Byte), Inv s → exec .rdCtrl s = .next t → t.result = .byte r →
    r.getLsbD 7 = false ∧ r.getLsbD 5 = false)

/-- 40_register_access.md R113: `WR_STATUS` faults during an exchange; otherwise it writes `DBL` from bit 0 of the byte,
and bits 7:1 of `STATUS` and everything else but the history and the result stay. -/
def Obligations.WrStatusWritesDblOnlyOrFaults : Prop :=
  ∀ (v : Byte) (s : State), isLive s = true →
    (s.busy = true → exec (.wrStatus v) s = .fault (.configWhileBusy (0x3000#16 + v.setWidth 16))) ∧
    (s.busy = false →
      ∃ st : Byte, st.getLsbD 0 = v.getLsbD 0 ∧ (∀ k, 1 ≤ k → st.getLsbD k = s.status.getLsbD k) ∧
        exec (.wrStatus v) s = .next
          { s with
            status := st
            result := .none
            hist := s.hist ++ [.op (0x3000#16 + v.setWidth 16) .none] })

/-- 40_register_access.md R114: `RD_STATUS` returns `TC` in bit 7, `DBL` in bit 0 and 0 elsewhere, and arms the
flag-clearing sequence when `TC` = 1, also during an exchange. -/
def Obligations.RdStatusReturnsFlagsAndArms : Prop :=
  ∀ s : State, isLive s = true →
    ∃ r : Byte,
      r = (if s.status.getLsbD 7 then 0x80#8 else 0x00#8) + (if s.status.getLsbD 0 then 0x01#8 else 0x00#8) ∧
      exec .rdStatus s = .next
        { s with
          armed := if s.status.getLsbD 7 then true else s.armed
          result := .byte r
          hist := s.hist ++ [.op 0x4000#16 (.byte r)] }

/-! ## Data register and engine -/

/-- 40_register_access.md R115: the conditions of `WR_DATA` in order; where none holds, it clears `TC` and `ARMED` if
`ARMED` was 1, loads `TXS` and `XCFG`, sets `BUSY`, and emits `Start` with the snapshot of every line; nothing else
changes but the history and the result. -/
def Obligations.WrDataStartsAnExchangeOrStopsInOrder : Prop :=
  ∀ (v : Byte) (s : State), isLive s = true →
    (s.busy = true → exec (.wrData v) s = .fault (.writeCollision (0x5000#16 + v.setWidth 16))) ∧
    (s.busy = false → (s.ctrl.getLsbD 6 = false ∨ s.ctrl.getLsbD 4 = false) →
      exec (.wrData v) s = .fault (.unconfigured (0x5000#16 + v.setWidth 16))) ∧
    (s.busy = false → s.ctrl.getLsbD 6 = true → s.ctrl.getLsbD 4 = true →
      (lineDirAt s s.params.sck = .inp ∨ lineDirAt s s.params.mosi = .inp) →
      exec (.wrData v) s = .fault (.engineLinesNotOutput (0x5000#16 + v.setWidth 16))) ∧
    (s.busy = false → s.ctrl.getLsbD 6 = true → s.ctrl.getLsbD 4 = true →
      lineDirAt s s.params.sck = .out → lineDirAt s s.params.mosi = .out →
      ∃ x : XCfg,
        x = { cpol := s.ctrl.getLsbD 3, cpha := s.ctrl.getLsbD 2, rate := s.ctrl.extractLsb' 0 2,
              dbl := s.status.getLsbD 0 } ∧
        exec (.wrData v) s = .next
          { s with
            status := if s.armed then s.status &&& 0x7F#8 else s.status
            armed := false
            txs := v
            xcfg := x
            busy := true
            result := .none
            hist := s.hist ++ [.op (0x5000#16 + v.setWidth 16) .none, .start v x s.lines] })

/-- 40_register_access.md R116: the conditions of `RD_DATA` in order; where none holds, it returns the byte received, and
clears `TC` and `ARMED` if `ARMED` was 1; nothing else changes but the history and the result. -/
def Obligations.RdDataReturnsTheReceivedByteOrStops : Prop :=
  ∀ s : State, isLive s = true →
    (s.busy = true → exec .rdData s = .fault (.readWhileBusy 0x6000#16)) ∧
    (s.busy = false → s.rxb = none → exec .rdData s = .fault (.rxEmpty 0x6000#16)) ∧
    (∀ i, s.busy = false → s.rxb = some i →
      exec .rdData s = .next
        { s with
          status := if s.armed then s.status &&& 0x7F#8 else s.status
          armed := false
          result := .byte i
          hist := s.hist ++ [.op 0x6000#16 (.byte i)] })

/-- 40_register_access.md R130: when the engine moves, whether an input of the schedule or the free value `Config.turn`
says so (log 6), `COMPLETE` puts the byte the peripheral answers into `RXB`, sets `TC`, ends the exchange and emits `Done`.
The first clause is for an answer given as an input, the second for the free answer `Config.peripheral` (log 4); the
statement holds for every one. -/
def Obligations.CompletionEndsTheExchange : Prop :=
  ∀ s s0 : State, isLive s = true → s.busy = true →
    ((∃ ts, s.turns = .engine :: ts ∧ s0 = { s with turns := ts }) ∨
      (s.turns = [] ∧ Config.turn s.draws = .engine ∧ s0 = { s with draws := s.draws + 1 })) →
    (∀ i is, s.rxInputs = i :: is →
      step s = .next
        { s0 with
          rxb := some i
          status := s.status ||| 0x80#8
          busy := false
          hist := s.hist ++ [.done s.txs i]
          rxInputs := is }) ∧
    (s.rxInputs = [] →
      step s = .next
        { s0 with
          rxb := some (Config.peripheral s.hist s.txs s.xcfg)
          status := s.status ||| 0x80#8
          busy := false
          hist := s.hist ++ [.done s.txs (Config.peripheral s.hist s.txs s.xcfg)] })

/-- 10_state.md R55: `BUSY` goes from 1 to 0 only by a completion, which receives a byte, sets `TC` and emits `Done`; and
from 0 to 1 only by a `WR_DATA`, whose `Start` event is the last one emitted. -/
def Obligations.BusyChangesOnlyByStartAndCompletion : Prop :=
  ∀ s t : State, step s = .next t →
    (s.busy = true → t.busy = false →
      ∃ i, t.rxb = some i ∧ t.status.getLsbD 7 = true ∧ t.hist = s.hist ++ [.done s.txs i]) ∧
    (s.busy = false → t.busy = true →
      ∃ v, t.txs = v ∧
        t.hist = s.hist ++ [.op (0x5000#16 + v.setWidth 16) .none, .start v t.xcfg s.lines])

/-- 40_register_access.md R125: a data access made while `ARMED` = 1 clears `TC` and `ARMED`; a status read that returns
`TC` = 1 sets `ARMED`; and over any step of any agent, `TC` goes from 1 to 0 only by a data access made while `ARMED` = 1. -/
def Obligations.FlagClearsOnlyByArmedDataAccess : Prop :=
  (∀ (i : Instr) (s t : State), (i = .rdData ∨ ∃ v, i = .wrData v) → s.armed = true → exec i s = .next t →
    t.status.getLsbD 7 = false ∧ t.armed = false) ∧
  (∀ s t : State, s.status.getLsbD 7 = true → exec .rdStatus s = .next t → t.armed = true) ∧
  (∀ s t : State, step s = .next t → s.status.getLsbD 7 = true → t.status.getLsbD 7 = false →
    s.armed = true ∧ t.armed = false ∧
      ∃ i es, (i = .rdData ∨ ∃ v, i = .wrData v) ∧ t.hist = s.hist ++ .op (encode i) t.result :: es)

/-- 20_memory.md R80: during an exchange that `TC` = 0 shows to be unfinished, each step either leaves it in progress
with `TC` = 0 and `RXB` untouched, or is its completion, which sets `TC` and writes `RXB`. So a status read that returns
`TC` = 1 comes after the completion. -/
def Obligations.FlagStaysClearUntilCompletion : Prop :=
  ∀ s t : State, s.busy = true → s.status.getLsbD 7 = false → step s = .next t →
    (t.busy = true ∧ t.status.getLsbD 7 = false ∧ t.rxb = s.rxb ∧ t.txs = s.txs ∧ t.xcfg = s.xcfg) ∨
    (t.busy = false ∧ t.status.getLsbD 7 = true ∧ ∃ i, t.rxb = some i ∧ t.hist = s.hist ++ [.done s.txs i])

/-- 20_memory.md R81, 70_reset_and_hazards.md R241: a `WR_DATA` made while `TC` = 1 and `ARMED` = 0 leaves `TC` = 1; a
status read in the new exchange returns bit 7 = 1 at once, and a `RD_DATA` after it, the exchange not yet complete, faults. -/
def Obligations.StaleFlagSurvivesWrData : Prop :=
  ∀ (v : Byte) (s t : State), s.status.getLsbD 7 = true → s.armed = false → exec (.wrData v) s = .next t →
    t.status.getLsbD 7 = true ∧ t.armed = false ∧ t.busy = true ∧
    ∃ u b, exec .rdStatus t = .next u ∧ u.result = .byte b ∧ b.getLsbD 7 = true ∧ u.armed = true ∧
      exec .rdData u = .fault (.readWhileBusy 0x6000#16)

/-! ## Lines -/

/-- 41_line_control.md R141: the conditions of `LINE_DIR` in order; where none holds, it writes the line's direction and
emits `Line`; nothing else changes but the history and the result. -/
def Obligations.LineDirSetsTheDirectionOrStopsInOrder : Prop :=
  ∀ (l : LineId) (d : Dir) (s : State) (w : OpWord), isLive s = true →
    w = 0x7000#16 + (l.setWidth 16 <<< 4) + (if d = .out then 1#16 else 0#16) →
    (s.lines.length ≤ l.toNat → exec (.lineDir l d) s = .fault (.lineOutOfRange w)) ∧
    (l.toNat < s.lines.length → s.busy = true →
      (l = s.params.sck ∨ l = s.params.mosi ∨ l = s.params.miso ∨ l = s.params.ss) →
      exec (.lineDir l d) s = .fault (.lineConflictWhileBusy w)) ∧
    (l.toNat < s.lines.length → s.busy = false → l = s.params.ss → d = .inp →
      s.ctrl.getLsbD 6 = true → s.ctrl.getLsbD 4 = true →
      exec (.lineDir l d) s = .fault (.masterModeNotHeld w)) ∧
    (l.toNat < s.lines.length →
      ((l = s.params.sck ∨ l = s.params.mosi ∨ l = s.params.miso ∨ l = s.params.ss) → s.busy = false) →
      (l = s.params.ss → d = .inp → s.ctrl.getLsbD 6 = false ∨ s.ctrl.getLsbD 4 = false) →
      exec (.lineDir l d) s = .next
        { s with
          lines := s.lines.set l.toNat { dir := d, latch := (lineAt s l).latch }
          result := .none
          hist := s.hist ++ [.op w .none, .line l d (lineAt s l).latch] })

/-- 41_line_control.md R142: the conditions of `LINE_SET` in order; where none holds, it writes the line's latch and emits
`Line`; nothing else changes but the history and the result. -/
def Obligations.LineSetSetsTheLatchOrStopsInOrder : Prop :=
  ∀ (l : LineId) (v : Level) (s : State) (w : OpWord), isLive s = true →
    w = 0x8000#16 + (l.setWidth 16 <<< 4) + (if v = .high then 1#16 else 0#16) →
    (s.lines.length ≤ l.toNat → exec (.lineSet l v) s = .fault (.lineOutOfRange w)) ∧
    (l.toNat < s.lines.length → s.busy = true →
      (l = s.params.sck ∨ l = s.params.mosi ∨ l = s.params.miso) →
      exec (.lineSet l v) s = .fault (.lineConflictWhileBusy w)) ∧
    (l.toNat < s.lines.length →
      ((l = s.params.sck ∨ l = s.params.mosi ∨ l = s.params.miso) → s.busy = false) →
      exec (.lineSet l v) s = .next
        { s with
          lines := s.lines.set l.toNat { dir := (lineAt s l).dir, latch := v }
          result := .none
          hist := s.hist ++ [.op w .none, .line l (lineAt s l).dir v] })

/-- 41_line_control.md R143, 10_state.md R61: `LINE_GET` faults on a line the platform does not have; it returns the
latch of an output line that the enabled master does not drive, and otherwise the level that the environment answers: an
input, or the free value `Config.envLevel` (the statement holds for every one). The block is unchanged but for the
history. -/
def Obligations.LineGetReturnsTheLevelOrFaults : Prop :=
  ∀ (l : LineId) (s : State) (w : OpWord) (latched : Prop), isLive s = true →
    w = 0x9000#16 + (l.setWidth 16 <<< 4) →
    (latched ↔ (lineAt s l).dir = .out ∧
      ¬ ((l = s.params.sck ∨ l = s.params.mosi) ∧ s.ctrl.getLsbD 6 = true ∧ s.ctrl.getLsbD 4 = true)) →
    (s.lines.length ≤ l.toNat → exec (.lineGet l) s = .fault (.lineOutOfRange w)) ∧
    (l.toNat < s.lines.length → latched →
      exec (.lineGet l) s = .next
        { s with
          result := .bit (lineAt s l).latch
          hist := s.hist ++ [.op w (.bit (lineAt s l).latch)] }) ∧
    (∀ b bs, l.toNat < s.lines.length → ¬ latched → s.levelInputs = b :: bs →
      exec (.lineGet l) s = .next
        { s with
          result := .bit b
          levelInputs := bs
          hist := s.hist ++ [.op w (.bit b)] }) ∧
    (l.toNat < s.lines.length → ¬ latched → s.levelInputs = [] →
      exec (.lineGet l) s = .next
        { s with
          result := .bit (Config.envLevel s.hist l)
          hist := s.hist ++ [.op w (.bit (Config.envLevel s.hist l))] })

/-- 41_line_control.md R147: a line's level follows its state at once, unless the enabled master drives the line: made an
output, a line reads its latch; an output line set to a level reads that level. -/
def Obligations.LevelFollowsTheLineAtOnce : Prop :=
  ∀ (l : LineId) (s t : State),
    ¬ ((l = s.params.sck ∨ l = s.params.mosi) ∧ isMaster s = true) →
    (exec (.lineDir l .out) s = .next t →
      ∃ u, exec (.lineGet l) t = .next u ∧ u.result = .bit (lineAt s l).latch) ∧
    (∀ v, (lineAt s l).dir = .out → exec (.lineSet l v) s = .next t →
      ∃ u, exec (.lineGet l) t = .next u ∧ u.result = .bit v)

/-- 41_line_control.md R148: repeating a `LINE_SET` with the level the line already has leaves every line, and the rest
of the block, unchanged, and still appends its `Op` and `Line` events. -/
def Obligations.RepeatedLineSetChangesNoLine : Prop :=
  ∀ (l : LineId) (v : Level) (s t : State), (lineAt s l).latch = v → exec (.lineSet l v) s = .next t →
    viewOf t = viewOf s ∧
      t.hist = s.hist ++ [.op (encode (.lineSet l v)) .none, .line l (lineAt s l).dir v]

/-- 41_line_control.md R146: the engine does not read any line's latch, the chip-select line's among them: a `WR_DATA`
has the same outcome whatever the latches, but for the snapshot in its `Start` event. -/
def Obligations.ExchangeIgnoresEveryLatch : Prop :=
  ∀ (v : Byte) (l : LineId) (b : Level) (s s' : State),
    s' = { s with lines := s.lines.set l.toNat { dir := (lineAt s l).dir, latch := b } } →
    (∀ t, exec (.wrData v) s = .next t →
      ∃ t', exec (.wrData v) s' = .next t' ∧ t'.txs = t.txs ∧ t'.xcfg = t.xcfg ∧ t'.busy = t.busy ∧
        t'.status = t.status ∧ t'.armed = t.armed ∧ t'.rxb = t.rxb ∧ t'.lines = s'.lines) ∧
    (∀ f, exec (.wrData v) s = .fault f → exec (.wrData v) s' = .fault f)

/-! ## Frames -/

/-- 10_state.md R33, R40, R51, R54 to R59: of all the operations, `CTRL` is written only by `WR_CTRL`, bits 7:1 of
`STATUS` only by the data accesses, `DBL` only by `WR_STATUS`, `TXS`, `XCFG` and `BUSY` only by `WR_DATA`, `ARMED` only by
`RD_STATUS` and the data accesses, and `RXB` by none. -/
def Obligations.RegistersAreWrittenOnlyByTheirOperations : Prop :=
  ∀ (i : Instr) (s t : State), exec i s = .next t →
    t.rxb = s.rxb ∧
    ((∀ v, i ≠ .wrCtrl v) → t.ctrl = s.ctrl) ∧
    ((∀ v, i ≠ .wrStatus v) → t.status.getLsbD 0 = s.status.getLsbD 0) ∧
    ((∀ v, i ≠ .wrData v) → i ≠ .rdData → ∀ k, 1 ≤ k → t.status.getLsbD k = s.status.getLsbD k) ∧
    ((∀ v, i ≠ .wrData v) → t.txs = s.txs ∧ t.xcfg = s.xcfg ∧ t.busy = s.busy) ∧
    ((∀ v, i ≠ .wrData v) → i ≠ .rdData → i ≠ .rdStatus → t.armed = s.armed)

/-- 10_state.md R60: of all the operations, a line's direction is written only by `LINE_DIR` of that line, and its latch
only by `LINE_SET` of that line; no operation changes how many lines there are. -/
def Obligations.LinesAreWrittenOnlyByTheirOperations : Prop :=
  ∀ (i : Instr) (s t : State), exec i s = .next t →
    t.lines.length = s.lines.length ∧
    (∀ k : LineId, (∀ d, i ≠ .lineDir k d) → (lineAt t k).dir = (lineAt s k).dir) ∧
    (∀ k : LineId, (∀ v, i ≠ .lineSet k v) → (lineAt t k).latch = (lineAt s k).latch)

/-- 10_state.md R62, 40_register_access.md R110: an operation that ends normally appends `Op(w, r)` with its word and the
result it hands back, then at most one other event, and removes nothing. -/
def Obligations.OperationAppendsItsOpEventFirst : Prop :=
  ∀ (i : Instr) (s t : State), exec i s = .next t →
    ∃ es : List Event, t.hist = s.hist ++ .op (encode i) t.result :: es ∧ es.length ≤ 1

/-- 00_scope.md R8, R16, 10_state.md R62, R66: no operation writes a mark, a parameter, the host program, its index, its
variables, or the inputs of the schedule and of the peripheral; only `LINE_GET` takes an input level. -/
def Obligations.OperationLeavesTheHostAndTheInputs : Prop :=
  ∀ (i : Instr) (s t : State), exec i s = .next t →
    t.fault = s.fault ∧ t.refused = s.refused ∧ t.params = s.params ∧ t.prog = s.prog ∧ t.hpc = s.hpc ∧
    t.vars = s.vars ∧ t.turns = s.turns ∧ t.rxInputs = s.rxInputs ∧ t.draws = s.draws ∧
    ((∀ l, i ≠ .lineGet l) → t.levelInputs = s.levelInputs)

/-- 10_state.md R56, R59, 70_reset_and_hazards.md R231: no operation reads `TXS` or `XCFG`: whatever they hold, each
operation has the same outcome and leaves the same state, but for those two where the operation is no `WR_DATA`. So the
values they have at reset, which the spec leaves open (log 7), show in no operation. -/
def Obligations.OperationsDoNotReadTheHiddenRegisters : Prop :=
  ∀ (i : Instr) (s s' : State) (x : Byte) (c : XCfg), s' = { s with txs := x, xcfg := c } →
    (∀ t, exec i s = .next t →
      exec i s' = .next (match i with | .wrData _ => t | _ => { t with txs := x, xcfg := c })) ∧
    (∀ f, exec i s = .fault f → exec i s' = .fault f) ∧
    (∀ r, exec i s = .refused r → exec i s' = .refused r)

/-- 00_scope.md R8, R16, 10_state.md R62: over any step, the parameters, the number of lines and the host program stay,
and the history only grows. -/
def Obligations.StepKeepsPlatformAndProgram : Prop :=
  ∀ s t : State, step s = .next t →
    t.params = s.params ∧ t.lines.length = s.lines.length ∧ t.prog = s.prog ∧ ∃ es, t.hist = s.hist ++ es

/-! ## Faults and marks -/

/-- 60_exceptions.md R203: a live operation faults only with a reason of the table, with its own word, under the table's
condition; and a machine with a mark set has no step. -/
def Obligations.FaultsFollowTheTable : Prop :=
  ∀ (i : Instr) (s : State) (f : Fault), exec i s = .fault f →
    match f with
    | .unconfigured w => w = encode i ∧ (∃ v, i = .wrData v) ∧ (s.ctrl.getLsbD 6 = false ∨ s.ctrl.getLsbD 4 = false)
    | .writeCollision w => w = encode i ∧ (∃ v, i = .wrData v) ∧ s.busy = true
    | .engineLinesNotOutput w => w = encode i ∧ (∃ v, i = .wrData v) ∧
        (lineDirAt s s.params.sck = .inp ∨ lineDirAt s s.params.mosi = .inp)
    | .readWhileBusy w => w = encode i ∧ i = .rdData ∧ s.busy = true
    | .rxEmpty w => w = encode i ∧ i = .rdData ∧ s.rxb = none
    | .configWhileBusy w => w = encode i ∧ ((∃ v, i = .wrCtrl v) ∨ ∃ v, i = .wrStatus v) ∧ s.busy = true
    | .masterModeNotHeld w => w = encode i ∧
        ((∃ v, i = .wrCtrl v ∧ v.getLsbD 6 = true ∧ v.getLsbD 4 = true ∧ lineDirAt s s.params.ss = .inp) ∨
          (i = .lineDir s.params.ss .inp ∧ isMaster s = true))
    | .lineConflictWhileBusy w => w = encode i ∧ s.busy = true ∧
        ∃ l, isEngineLine s l = true ∧ ((∃ d, i = .lineDir l d) ∨ ∃ v, i = .lineSet l v)
    | .lineOutOfRange w => w = encode i ∧
        ∃ l : LineId, s.lines.length ≤ l.toNat ∧ ((∃ d, i = .lineDir l d) ∨ (∃ v, i = .lineSet l v) ∨ i = .lineGet l)
    | .stopped => isLive s = false

/-- 60_exceptions.md R205: an operation is refused only if it is a `WR_CTRL`, with `InterruptEnable` if bit 7 of its byte
is 1, and with `LsbFirst` if bit 7 is 0 and bit 5 is 1. -/
def Obligations.RefusalsFollowTheTable : Prop :=
  ∀ (i : Instr) (s : State) (r : Refusal), exec i s = .refused r →
    ∃ v, i = .wrCtrl v ∧
      ((r = .interruptEnable (encode i) ∧ v.getLsbD 7 = true) ∨
        (r = .lsbFirst (encode i) ∧ v.getLsbD 7 = false ∧ v.getLsbD 5 = true))

/-- 00_scope.md R11: a fault or a refusal of a step sets its mark and leaves every other field unchanged; once a mark is
set no agent has a step, and the state never changes again. -/
def Obligations.FaultSetsOnlyItsMarkForGood : Prop :=
  ∀ (s : State) (k : Nat),
    (isLive s = true → ∀ f, step s = .fault f → runState (k + 1) s = { s with fault := some f }) ∧
    (isLive s = true → ∀ r, step s = .refused r → runState (k + 1) s = { s with refused := some r }) ∧
    ((s.fault ≠ none ∨ s.refused ≠ none) →
      step s = .fault .stopped ∧ (∀ i, exec i s = .fault .stopped) ∧ runState k s = s)

/-! ## Invariants, reset and the step -/

/-- 70_reset_and_hazards.md R231, for every platform: what reset leaves, less the two fields R231 leaves unspecified. -/
def Obligations.ResetLeavesTheStatedValues : Prop :=
  ∀ (p : Params) (n : Nat) (s : State), s = State.resetFor p n →
    s.ctrl = 0x00#8 ∧ s.status = 0x00#8 ∧ s.busy = false ∧ s.rxb = none ∧ s.armed = false ∧ s.hist = [] ∧
    s.fault = none ∧ s.refused = none ∧ lineCount s = n ∧ s.params = p ∧
    (∀ l : LineId, l.toNat < n → s.lines[l.toNat]? = some { dir := .inp, latch := .low }) ∧
    (∀ l : LineId, drivesLatch s l = false) ∧
    exec .rdData s = .fault (.rxEmpty 0x6000#16)

/-- 10_state.md R64: the invariant holds at reset, on every platform. -/
def Obligations.ResetMeetsTheInvariant : Prop :=
  ∀ (p : Params) (n : Nat), Safe (State.resetFor p n)

/-- 10_state.md R64 (and R59's clause on `XCFG`): every step of either agent keeps the invariant, from every state that
meets it, and leaves the machine live. -/
def Obligations.StepKeepsTheInvariant : Prop :=
  ∀ s t : State, Inv s → step s = .next t → Safe t

/-- 10_state.md R62: the history tells every change of the block: over any step of any agent, replaying the events it
appended, from the block before, gives the block after. -/
def Obligations.HistoryTellsEveryChange : Prop :=
  ∀ s t : State, step s = .next t →
    ∃ es : List Event, t.hist = s.hist ++ es ∧ viewOf t = es.foldl replayEvent (viewOf s)

/-- 42_driver_operations.md R176, 10_state.md R62: while a line is asserted (an output, low), every exchange that begins
is recorded as begun with that line asserted. -/
def Obligations.ExchangesBeganWhileAssertedAreBracketed : Prop :=
  ∀ (cs : LineId) (s t : State), lineAt s cs = { dir := .out, latch := .low } →
    bracketed cs s.hist = true → step s = .next t → bracketed cs t.hist = true

/-- 00_scope.md R16 as the model holds it (log 13): every step keeps the list of host variables in its canonical form. -/
def Obligations.StepKeepsVariablesCanonical : Prop :=
  ∀ s t : State, varsWf s.vars = true → step s = .next t → varsWf t.vars = true

/-- 00_scope.md R10, R16, 40_register_access.md R110: when the host moves and the next step of its program is an
operation word that decodes, the step is that operation, its result bound and `hpc` advanced. During an exchange the host
moves when an input of the schedule or the free value `Config.turn` says so (log 6). -/
def Obligations.StepRunsTheDecodedOperation : Prop :=
  ∀ (s s0 : State) (dst : Option Var) (w : OpWord) (i : Instr), isLive s = true → fetch s = some (.op dst w) →
    decode w = .ok i → i.wf = true →
    ((s.busy = false ∧ s0 = s) ∨
      (∃ ts, s.busy = true ∧ s.turns = .host :: ts ∧ s0 = { s with turns := ts }) ∨
      (s.busy = true ∧ s.turns = [] ∧ Config.turn s.draws = .host ∧ s0 = { s with draws := s.draws + 1 })) →
    step s = andThen (exec i s0) (fun t => advance (bindResult dst t))

/-! ## Host accesses -/

/-- 20_memory.md R74: the six one-byte accesses at the register addresses are the six register operations, and an access
that touches no register address does not reach the block. The model's own choices in it: a write takes the low byte of a
wider value (log 15, DEDUCED); an access of any number of bytes never wraps round the address space, so the second clause
speaks of addresses from `addr` upwards (log 26, DESIGN CHOICE, unsafe); what such a read binds is a free value (log 14). -/
def Obligations.HostAccessesAreTheRegisterOperations : Prop :=
  (∀ (s : State) (x : Var) (v : HostInt), s.params.addrsDistinct = true →
    loadAccess x s.params.addrCtrl 1 s = andThen (exec .rdCtrl s) (bindResult (some x)) ∧
    loadAccess x s.params.addrStatus 1 s = andThen (exec .rdStatus s) (bindResult (some x)) ∧
    loadAccess x s.params.addrData 1 s = andThen (exec .rdData s) (bindResult (some x)) ∧
    storeAccess s.params.addrCtrl 1 v s = exec (.wrCtrl (v.setWidth 8)) s ∧
    storeAccess s.params.addrStatus 1 v s = exec (.wrStatus (v.setWidth 8)) s ∧
    storeAccess s.params.addrData 1 v s = exec (.wrData (v.setWidth 8)) s) ∧
  (∀ (s : State) (x : Var) (v : HostInt) (addr n : Nat), isLive s = true →
    (∀ a, (a = s.params.addrCtrl ∨ a = s.params.addrStatus ∨ a = s.params.addrData) → a < addr ∨ addr + n ≤ a) →
    storeAccess addr n v s = .next s ∧
    ∃ t, loadAccess x addr n s = .next t ∧ viewOf t = viewOf s ∧ t.hist = s.hist ∧
      ∀ y, y ≠ x → getVar y t = getVar y s)

/-- 20_memory.md R73: an access of more than one byte that touches a register address is refused. -/
def Obligations.WideAccessIsRefused : Prop :=
  ∀ (s : State) (x : Var) (v : HostInt) (addr n a : Nat), isLive s = true → 1 < n →
    (a = s.params.addrCtrl ∨ a = s.params.addrStatus ∨ a = s.params.addrData) → addr ≤ a → a < addr + n →
    loadAccess x addr n s = .refused (.wideAccess (.read addr n)) ∧
    storeAccess addr n v s = .refused (.wideAccess (.write addr n v))

/-! ## The driver's sequences -/

/-- 42_driver_operations.md R163: the configuration word of every mode and divider, as a number and field by field. -/
def Obligations.ControlWordPacksModeAndDivider : Prop :=
  ∀ (mode div : Nat) (c : Byte), c = ctrlWord (maskMode mode) (maskDiv div) →
    c.toNat = 0x50 + (mode % 4) * 4 + div % 4 ∧
    ctrlCPOL c = mode.testBit 1 ∧ ctrlCPHA c = mode.testBit 0 ∧ (ctrlRATE c).toNat = div % 4 ∧
    ctrlEN c = true ∧ ctrlMSTR c = true ∧ ctrlIE c = false ∧ ctrlORD c = false

/-- 42_driver_operations.md R162: what `configure` leaves, for every state with no exchange in progress and every mode
and divider of any width. -/
def Obligations.ConfigureLeavesItsConfiguration : Prop :=
  ∀ (s : State) (cs : LineId) (mode div : Nat) (rest : List HostStep),
    isLive s = true → s.busy = false → s.params.wf (lineCount s) = true → cs.toNat < lineCount s →
    s.prog.drop s.hpc = expand s.params (.configure cs mode div) ++ rest →
    ∃ t, Host.Core.run core 8 s = .next t ∧
      t.ctrl.toNat = 0x50 + (mode % 4) * 4 + div % 4 ∧
      t.status.getLsbD 0 = div.testBit 2 ∧ t.status.getLsbD 7 = s.status.getLsbD 7 ∧
      t.armed = (s.armed || s.status.getLsbD 7) ∧
      t.rxb = s.rxb ∧ t.txs = s.txs ∧ t.busy = false ∧ isLive t = true ∧ t.hpc = s.hpc + 8 ∧
      ∀ l : LineId, lineAt t l =
        if l = cs then { dir := .out, latch := .high }
        else if l = s.params.sck ∨ l = s.params.mosi ∨ l = s.params.ss then
          { dir := .out, latch := (lineAt s l).latch }
        else lineAt s l

/-- 42_driver_operations.md R162, 95_test_vectors.md 2.5: `configure` of a line that the platform does not have faults
at its first step; made during an exchange, of a line that is not an engine line, it faults at the clock line, when the
host is the next to move three times. -/
def Obligations.ConfigureFaultsWhereItsStepsDo : Prop :=
  ∀ (s : State) (cs : LineId) (mode div : Nat) (rest : List HostStep), isLive s = true →
    s.prog.drop s.hpc = expand s.params (.configure cs mode div) ++ rest →
    (s.busy = false → lineCount s ≤ cs.toNat →
      step s = .fault (.lineOutOfRange (0x7001#16 + (cs.setWidth 16 <<< 4)))) ∧
    (s.busy = true → s.params.wf (lineCount s) = true → cs.toNat < lineCount s → isEngineLine s cs = false →
      comingTurns 3 s = [.host, .host, .host] →
      Host.Core.run core 3 s = .fault (.lineConflictWhileBusy (0x7001#16 + (s.params.sck.setWidth 16 <<< 4))))

/-- 42_driver_operations.md R166: a second `configure` with the same arguments leaves the block as the first left it,
apart from `ARMED`, which its status read sets if `TC` = 1. -/
def Obligations.ConfigureRepeatedLeavesTheSameBlock : Prop :=
  ∀ (s : State) (cs : LineId) (mode div : Nat) (rest : List HostStep),
    isLive s = true → s.busy = false → s.params.wf (lineCount s) = true → cs.toNat < lineCount s →
    s.prog.drop s.hpc = expandAll s.params [.configure cs mode div, .configure cs mode div] ++ rest →
    ∃ t u, Host.Core.run core 8 s = .next t ∧ Host.Core.run core 16 s = .next u ∧
      viewOf u = { viewOf t with armed := t.armed || t.status.getLsbD 7 }

/-- 42_driver_operations.md R167, R168, 41_line_control.md R143: after `begin` on an output chip-select line the line
reads low, after `end` it reads high, where the line is not one the enabled master drives or that an exchange holds. -/
def Obligations.BeginAndEndDriveTheChipSelect : Prop :=
  ∀ (s : State) (cs : LineId) (rest : List HostStep) (q : Pseudo) (v : Level),
    isLive s = true → s.busy = false → cs.toNat < lineCount s →
    ¬ ((cs = s.params.sck ∨ cs = s.params.mosi) ∧ isMaster s = true) → (lineAt s cs).dir = .out →
    ((q = .beginTx cs ∧ v = .low) ∨ (q = .endTx cs ∧ v = .high)) →
    s.prog.drop s.hpc = expand s.params q ++ rest →
    ∃ t u, Host.Core.run core 1 s = .next t ∧ t.hpc = s.hpc + 1 ∧ lineAt t cs = { dir := .out, latch := v } ∧
      (∀ k, k ≠ cs → lineAt t k = lineAt s k) ∧ exec (.lineGet cs) t = .next u ∧ u.result = .bit v

/-- 42_driver_operations.md R170: one iteration of `poll` is one `RD_STATUS`; it ends the poll exactly when bit 7 of the
status read is 1, and that read sets `ARMED`; otherwise `hpc` is held. -/
def Obligations.PollEndsExactlyOnTheFlag : Prop :=
  ∀ s : State, isLive s = true →
    ∃ t, runHostStep .poll s = .next t ∧ viewOf t = { viewOf s with armed := s.armed || s.status.getLsbD 7 } ∧
      t.hist = s.hist ++ [.op 0x4000#16 t.result] ∧
      t.hpc = if s.status.getLsbD 7 then s.hpc + 1 else s.hpc

/-- 42_driver_operations.md R169, 40_register_access.md R132: the byte exchange, however many status reads find it
unfinished (`k`) and whatever byte `i` the peripheral answers: the next input if there is one, else the free value
`Config.peripheral` of the history before the completion (log 4). The schedule is any that ends the exchange, by inputs or
by the free value `Config.turn` (log 6). -/
def Obligations.ByteExchangeReturnsThePeripheralsByte : Prop :=
  ∀ (s : State) (r : Option Var) (b : HostInt) (rest : List HostStep) (k : Nat),
    isLive s = true → s.busy = false → isMaster s = true →
    lineDirAt s s.params.sck = .out → lineDirAt s s.params.mosi = .out →
    (s.status.getLsbD 7 = false ∨ s.armed = true) →
    s.prog.drop s.hpc = expand s.params (.xchg r b) ++ rest →
    comingTurns (k + 1) s = List.replicate k .host ++ [.engine] →
    ∃ (t : State) (i : Byte), Host.Core.run core (k + 4) s = .next t ∧
      (∀ a is, s.rxInputs = a :: is → i = a) ∧
      (∃ (h : List Event) (st : Byte),
        t.hist = h ++ [.done (b.setWidth 8) i, .op 0x4000#16 (.byte st), .op 0x6000#16 (.byte i)] ∧
        (s.rxInputs = [] → i = Config.peripheral h (b.setWidth 8) (liveCfg s.ctrl s.status))) ∧
      t.txs = b.setWidth 8 ∧ t.rxb = some i ∧ t.status.getLsbD 7 = false ∧ t.armed = false ∧ t.busy = false ∧
      t.ctrl = s.ctrl ∧ t.status.getLsbD 0 = s.status.getLsbD 0 ∧ t.lines = s.lines ∧
      isLive t = true ∧ t.hpc = s.hpc + 3 ∧
      t.turns = s.turns.drop (k + 1) ∧ t.draws = s.draws + (k + 1 - s.turns.length) ∧
      t.rxInputs = s.rxInputs.drop 1 ∧
      startBytes t.hist = startBytes s.hist ++ [b.setWidth 8] ∧
      (∀ x, r = some x → getVar x t = i.setWidth 32)

/-- 42_driver_operations.md R171, R174, 20_memory.md R70: the 24-bit transfer sends bits 23:16, 15:8 and 7:0 of the
value in that order, in exactly three exchanges, and returns the three bytes received in the same order, whatever they
are (the inputs in order, as far as there are any, log 4) and however many status reads find each exchange unfinished,
by any schedule that ends them (log 6); if each exchange returned its outgoing byte, the result is the low 24 bits of the
value. -/
def Obligations.Transfer24SendsAndReturnsThreeBytes : Prop :=
  ∀ (s : State) (r : Var) (v : HostInt) (rest : List HostStep) (k2 k1 k0 : Nat),
    isLive s = true → s.busy = false → isMaster s = true →
    lineDirAt s s.params.sck = .out → lineDirAt s s.params.mosi = .out →
    (s.status.getLsbD 7 = false ∨ s.armed = true) →
    s.prog.drop s.hpc = expand s.params (.xfer24 r v) ++ rest →
    comingTurns ((k2 + 1) + (k1 + 1) + (k0 + 1)) s =
      (List.replicate k2 .host ++ [.engine]) ++ (List.replicate k1 .host ++ [.engine]) ++
        (List.replicate k0 .host ++ [.engine]) →
    ∃ (t : State) (i2 i1 i0 : Byte), Host.Core.run core (k2 + k1 + k0 + 13) s = .next t ∧
      startBytes t.hist = startBytes s.hist ++ [v.extractLsb' 16 8, v.extractLsb' 8 8, v.extractLsb' 0 8] ∧
      doneBytes t.hist = doneBytes s.hist ++ [i2, i1, i0] ∧
      s.rxInputs.take 3 = [i2, i1, i0].take s.rxInputs.length ∧ t.rxInputs = s.rxInputs.drop 3 ∧
      (getVar r t).toNat = i2.toNat * 2 ^ 16 + i1.toNat * 2 ^ 8 + i0.toNat ∧
      (i2 = v.extractLsb' 16 8 → i1 = v.extractLsb' 8 8 → i0 = v.extractLsb' 0 8 → getVar r t = v &&& 0xFFFFFF#32) ∧
      t.txs = v.extractLsb' 0 8 ∧ t.rxb = some i0 ∧
      t.status.getLsbD 7 = false ∧ t.armed = false ∧ t.busy = false ∧ t.ctrl = s.ctrl ∧
      t.status.getLsbD 0 = s.status.getLsbD 0 ∧ t.lines = s.lines ∧ isLive t = true ∧ t.hpc = s.hpc + 10

/-- 42_driver_operations.md R174: the reassembled value of any three bytes, below 2^24; and if each exchange returned its
outgoing byte, it is the low 24 bits of the value sent. -/
def Obligations.ReassemblyJoinsTheThreeBytes : Prop :=
  ∀ (s : State) (b2 b1 b0 : Byte),
    getVar varR2 s = b2.setWidth 32 → getVar varR1 s = b1.setWidth 32 → getVar varR0 s = b0.setWidth 32 →
    (evalExpr s joinExpr).toNat = b2.toNat * 2 ^ 16 + b1.toNat * 2 ^ 8 + b0.toNat ∧
    (evalExpr s joinExpr).toNat < 2 ^ 24 ∧
    ∀ v : HostInt, b2 = wordByte v 2 → b1 = wordByte v 1 → b0 = wordByte v 0 →
      evalExpr s joinExpr = v &&& 0xFFFFFF#32

/-- 42_driver_operations.md R172: from the same state, at every number of steps, the write-only variant and the
transfer have left the same block and the same history, or have stopped with the same fault or refusal. Past the end of
the shorter program this rests on the model's choices that a host with no step left waits (log 12) and that host
arithmetic is a host step (log 24). -/
def Obligations.Transmit24MatchesTransfer24 : Prop :=
  ∀ (s : State) (v : HostInt) (r : Var) (n : Nat),
    match Host.Core.run core n (loadProgram (expand s.params (.tx24 v)) s),
          Host.Core.run core n (loadProgram (expand s.params (.xfer24 r v)) s) with
    | .next a, .next b => viewOf a = viewOf b ∧ a.hist = b.hist
    | .fault f, .fault g => f = g
    | .refused p, .refused q => p = q
    | _, _ => False

/-- 40_register_access.md R131, 60_exceptions.md R208: for every number of steps there is a run in which the host polls
and the exchange does not complete, and it is no fault; the schedule is any that gives the host those turns (log 6). -/
def Obligations.UnfinishedExchangePollsOn : Prop :=
  ∀ (s : State) (rest : List HostStep) (k : Nat),
    isLive s = true → s.busy = true → s.status.getLsbD 7 = false → s.prog.drop s.hpc = .poll :: rest →
    comingTurns k s = List.replicate k .host →
    ∃ t, Host.Core.run core k s = .next t ∧ t.busy = true ∧ t.status.getLsbD 7 = false ∧ t.hpc = s.hpc ∧
      t.turns = s.turns.drop k ∧ t.draws = s.draws + (k - s.turns.length) ∧ isLive t = true

/-- 40_register_access.md R131, 42_driver_operations.md R170: under the premise `ENGINE_LIVE` a poll of an exchange that
`TC` = 0 shows to be unfinished ends, with the exchange complete and the flag armed. The premise is R131's own sentence
(log 29). -/
def Obligations.PollEndsUnderEngineLive : Prop :=
  ∀ (s : State) (rest : List HostStep),
    isLive s = true → s.busy = true → s.status.getLsbD 7 = false → s.prog.drop s.hpc = .poll :: rest →
    EngineLive s →
    ∃ m t, Host.Core.run core m s = .next t ∧ t.hpc = s.hpc + 1 ∧ t.busy = false ∧
      t.status.getLsbD 7 = true ∧ t.armed = true

/-- 40_register_access.md R124: the eight divisors, and that the double-speed modifier halves the divisor. -/
def Obligations.DivisorsAreTheTable : Prop :=
  ∀ x : XCfg,
    divisor x = [4, 16, 64, 128, 2, 8, 32, 64].getD (rateSel x).toNat 0 ∧
    (x.dbl = true → 2 * divisor x = divisor { x with dbl := false })
end

