-- ==== Sys2Proof/Laws/Flags.lean ====
section
/-!
SUPPORT. The register fields: a field written is the field read, and a write of one field leaves the others.
-/

namespace Sys2Proof.Machine

@[simp] theorem statusTC_putTC (b : Bool) (st : Byte) : statusTC (statusPutTC b st) = b := by
  cases b <;> simp [statusTC, statusPutTC]

@[simp] theorem statusDBL_putTC (b : Bool) (st : Byte) : statusDBL (statusPutTC b st) = statusDBL st := by
  cases b <;> simp [statusDBL, statusPutTC]

@[simp] theorem statusTC_putDBL (b : Bool) (st : Byte) : statusTC (statusPutDBL b st) = statusTC st := by
  cases b <;> simp [statusTC, statusPutDBL]

@[simp] theorem statusDBL_putDBL (b : Bool) (st : Byte) : statusDBL (statusPutDBL b st) = b := by
  cases b <;> simp [statusDBL, statusPutDBL]

/-- Writing `TC` leaves bits 6:1 of `STATUS` as they are. -/
theorem statusPutTC_reserved (b : Bool) (st : Byte) : statusPutTC b st &&& 0x7E#8 = st &&& 0x7E#8 := by
  revert st b; decide

/-- Writing `DBL` leaves bits 6:1 of `STATUS` as they are. -/
theorem statusPutDBL_reserved (b : Bool) (st : Byte) : statusPutDBL b st &&& 0x7E#8 = st &&& 0x7E#8 := by
  revert st b; decide

/-- Writing `TC` does not change the configuration an exchange runs with. -/
@[simp] theorem liveCfg_putTC (c st : Byte) (b : Bool) : liveCfg c (statusPutTC b st) = liveCfg c st := by
  simp [liveCfg]

/-- Bit 7 of what a status read returns is `TC`, all that the poll tests. -/
@[simp] theorem statusRead_bit7 (st : Byte) : (statusRead st).getLsbD 7 = statusTC st := by
  revert st; decide

end Sys2Proof.Machine
end

