-- ==== Sys2Proof/Laws/Ops.lean ====
section
/-!
SUPPORT. What each shared operation can do, said once.
-/

namespace Sys2Proof.Machine

/-- A list of conditions ends in the effect exactly when none holds. -/
theorem firstStop_eq_next (t u : State) (cs : List (Bool × Stop)) :
    firstStop t cs = .next u ↔ (∀ c ∈ cs, c.1 = false) ∧ u = t := by
  induction cs with
  | nil =>
    simp only [firstStop, Host.Outcome.next.injEq, List.not_mem_nil, false_implies, implies_true, true_and]
    exact eq_comm
  | cons c rest ih =>
    obtain ⟨b, e⟩ := c
    cases b
    · simpa [firstStop] using ih
    · cases e <;> simp [firstStop, stopOut]

/-- An operation ends in its effect exactly when the machine is live and no condition holds. -/
theorem perform_eq_next (s t u : State) (cs : List (Bool × Stop)) :
    perform s cs t = .next u ↔ isLive s = true ∧ (∀ c ∈ cs, c.1 = false) ∧ u = t := by
  unfold perform
  split
  · simp [firstStop_eq_next, *]
  · simp [*]

/-- An operation of a live machine whose conditions all fail ends in its effect. -/
theorem perform_of_clear {s : State} (h : isLive s = true) {cs : List (Bool × Stop)} (hc : ∀ c ∈ cs, c.1 = false)
    (t : State) : perform s cs t = .next t :=
  (perform_eq_next s t t cs).2 ⟨h, hc, rfl⟩

/-- An operation of a live machine whose first condition holds stops with it (60_exceptions.md R204). -/
theorem perform_stop {s : State} (h : isLive s = true) (e : Stop) (rest : List (Bool × Stop)) (t : State) :
    perform s ((true, e) :: rest) t = stopOut e := by
  simp [perform, h, firstStop]

/-- A condition that fails is passed over. -/
@[simp] theorem perform_skip (s : State) (e : Stop) (rest : List (Bool × Stop)) (t : State) :
    perform s ((false, e) :: rest) t = perform s rest t := by
  simp [perform, firstStop]

/-- A stopped machine performs nothing (00_scope.md R11). -/
theorem perform_of_marked {s : State} (h : isLive s = false) (cs : List (Bool × Stop)) (t : State) :
    perform s cs t = .fault .stopped := by
  simp [perform, h]

/-- Host work after an operation: a next state comes from a next state. -/
theorem andThen_eq_next (o : Out) (f : State → State) (u : State) :
    andThen o f = .next u ↔ ∃ t, o = .next t ∧ u = f t := by
  cases o <;> simp only [andThen, Host.Outcome.next.injEq, reduceCtorEq, false_and, exists_false, exists_eq_left']
  exact eq_comm

@[simp] theorem andThen_next (t : State) (f : State → State) : andThen (.next t) f = .next (f t) := rfl
@[simp] theorem andThen_fault (r : Fault) (f : State → State) : andThen (.fault r) f = .fault r := rfl
@[simp] theorem andThen_refused (r : Refusal) (f : State → State) : andThen (.refused r) f = .refused r := rfl

/-- The line file keeps its length. -/
@[simp] theorem putLine_lineCount (l : LineId) (r : LineRec) (s : State) : lineCount (putLine l r s) = lineCount s := by
  simp [lineCount, putLine, emit]

/-- A line just written reads as written. -/
theorem lineAt_putLine_same {s : State} {l : LineId} (h : hasLine s l = true) (r : LineRec) :
    lineAt (putLine l r s) l = r := by
  have : l.toNat < s.lines.length := of_decide_eq_true h
  simp [lineAt, putLine, emit, List.getD, this]

/-- A write of one line leaves every other line. -/
theorem lineAt_putLine_other (s : State) {l k : LineId} (h : k ≠ l) (r : LineRec) :
    lineAt (putLine l r s) k = lineAt s k := by
  have : ¬ l.toNat = k.toNat := fun e => h (BitVec.eq_of_toNat_eq e.symm)
  simp [lineAt, putLine, emit, List.getD, this]

/-- What the level of a line can be (10_state.md R61): its latch, or a draw. -/
theorem observeLevel_cases (l : LineId) (s : State) :
    (drivesLatch s l = true ∧ observeLevel l s = ((lineAt s l).latch, s)) ∨
    (drivesLatch s l = false ∧ observeLevel l s = drawLevel l s) := by
  unfold observeLevel
  cases h : drivesLatch s l <;> simp

/-- What a draw of the received byte can be: the next input, or the free value. -/
theorem drawByte_cases (s : State) :
    (∃ b rest, s.rxInputs = b :: rest ∧ drawByte s = (b, { s with rxInputs := rest })) ∨
    (s.rxInputs = [] ∧ drawByte s = (Config.peripheral s.hist s.txs s.xcfg, s)) := by
  cases h : s.rxInputs <;> simp [drawByte, h]

/-- What a draw of the next agent can be: the next input, or the free value. -/
theorem drawTurn_cases (s : State) :
    (∃ a rest, s.turns = a :: rest ∧ drawTurn s = (a, { s with turns := rest })) ∨
    (s.turns = [] ∧ drawTurn s = (Config.turn s.draws, { s with draws := s.draws + 1 })) := by
  cases h : s.turns <;> simp [drawTurn, h]

/-- What the flag-clearing half can do (40_register_access.md R125). -/
theorem clearIfArmed_cases (s : State) :
    (s.armed = true ∧ clearIfArmed s = { s with status := statusPutTC false s.status, armed := false }) ∨
    (s.armed = false ∧ clearIfArmed s = s) := by
  unfold clearIfArmed
  cases h : s.armed <;> simp

/-- The state a fault leaves (00_scope.md R11). -/
theorem settle_fault (s : State) {f : Fault} (h : f ≠ .stopped) : settle s (.fault f) = { s with fault := some f } := by
  cases f <;> simp_all [settle]

@[simp] theorem settle_next (s t : State) : settle s (.next t) = t := rfl
@[simp] theorem settle_stopped (s : State) : settle s (.fault .stopped) = s := rfl
@[simp] theorem settle_refused (s : State) (r : Refusal) : settle s (.refused r) = { s with refused := some r } := rfl

end Sys2Proof.Machine
end

