-- ==== Sys2Proof/Laws/PerInstr.lean ====
section
/-!
SUPPORT. One lemma per operation: the word that spells it has an assigned opcode and its must-be-zero bits zero
(30_encoding.md R91, R92, R96, R97).
-/

namespace Sys2Proof.Laws.EncodeLegal

/-- The encoder gives a word that the formats admit. -/
def Statement (i : Instr) : Prop := wordLegal (encode i) = true

theorem wrCtrl (imm8 : Byte) : Statement (.wrCtrl imm8) := by
  unfold Statement; revert imm8; decide +kernel

theorem rdCtrl : Statement .rdCtrl := by
  unfold Statement; decide

theorem wrStatus (imm8 : Byte) : Statement (.wrStatus imm8) := by
  unfold Statement; revert imm8; decide +kernel

theorem rdStatus : Statement .rdStatus := by
  unfold Statement; decide

theorem wrData (imm8 : Byte) : Statement (.wrData imm8) := by
  unfold Statement; revert imm8; decide +kernel

theorem rdData : Statement .rdData := by
  unfold Statement; decide

theorem lineDir (line : LineId) (dir : Dir) : Statement (.lineDir line dir) := by
  unfold Statement; cases dir <;> (revert line; decide +kernel)

theorem lineSet (line : LineId) (level : Level) : Statement (.lineSet line level) := by
  unfold Statement; cases level <;> (revert line; decide +kernel)

theorem lineGet (line : LineId) : Statement (.lineGet line) := by
  unfold Statement; revert line; decide +kernel

end Sys2Proof.Laws.EncodeLegal
end

