-- ==== Sys2Proof/Laws/Program.lean ====
section
/-!
SUPPORT. Who moves and what is fetched, said once (00_scope.md R10, R11, R16).
-/

namespace Sys2Proof.Machine

/-- The head of what is left of the program is the step fetched. -/
theorem fetch_of_drop {s : State} {h : HostStep} {rest : List HostStep} (e : s.prog.drop s.hpc = h :: rest) :
    fetch s = some h := by
  simp [fetch, e]

/-- What is left of the program after `hpc` advances. -/
theorem drop_advance {s : State} {h : HostStep} {rest : List HostStep} (e : s.prog.drop s.hpc = h :: rest) :
    s.prog.drop (s.hpc + 1) = rest := by
  rw [← List.drop_drop, e]; rfl

/-- The step placed at an index is the step found there. -/
theorem head_drop_putStep (h : HostStep) (k : Nat) (prog : List HostStep) :
    ((putStep h k prog).drop k).head? = some h := by
  induction k generalizing prog with
  | zero => cases prog <;> rfl
  | succ k ih => cases prog <;> simpa [putStep] using ih _

/-- The operation word that the host places is the step fetched next. -/
theorem fetch_withFetchWord (s : State) (nbits w : Nat) :
    fetch (s.withFetchWord nbits w) = some (.op none (BitVec.ofNat 16 (w % 2 ^ nbits))) :=
  head_drop_putStep _ _ _

/-- With no exchange in progress the host moves. -/
theorem step_of_idle {s : State} (hl : isLive s = true) (hb : s.busy = false) : step s = hostTurn s := by
  simp [step, nextStep, hl, hb]

/-- During an exchange the agent drawn moves. -/
theorem step_of_busy {s : State} (hl : isLive s = true) (hb : s.busy = true) :
    step s = match (drawTurn s).1 with
      | .engine => .next (complete (drawTurn s).2)
      | .host => hostTurn (drawTurn s).2 := by
  unfold step nextStep
  exact (if_pos hl).trans ((if_pos hb).trans (by cases (drawTurn s).1 <;> rfl))

/-- The host's turn at a step of its program. -/
theorem hostTurn_of_fetch {s : State} {h : HostStep} (e : fetch s = some h) : hostTurn s = runHostStep h s := by
  simp [hostTurn, e]

/-- One more step of a run, taken first. -/
theorem run_succ_of_next {s t : State} (h : step s = .next t) (k : Nat) :
    Host.Core.run core (k + 1) s = Host.Core.run core k t := by
  have h' : Host.Core.step core s = .next t := h
  simp only [Host.Core.run, h']

/-- A run of `j + k` steps is a run of `j` and then of `k`. -/
theorem run_add {j : Nat} {s t : State} (h : Host.Core.run core j s = .next t) (k : Nat) :
    Host.Core.run core (j + k) s = Host.Core.run core k t := by
  induction j generalizing s with
  | zero => cases h; simp
  | succ j ih =>
    rw [Nat.succ_add]
    simp only [Host.Core.run] at h ⊢
    cases hs : Host.Core.step core s with
    | next u => rw [hs] at h; exact ih h
    | fault r => rw [hs] at h; cases h
    | refused r => rw [hs] at h; cases h

end Sys2Proof.Machine
end

