-- ==== Sys2Proof/Laws/Schedule.lean ====
section
/-!
SUPPORT. The schedule of an exchange: what drawing the next agent leaves, and the coming turns (00_scope.md R10, log 6).
-/

namespace Sys2Proof.Machine

/-- What a draw of the next agent leaves: one input of the schedule fewer, or, with none left, the counter one further. -/
theorem drawTurn_snd (s : State) :
    (drawTurn s).2 = { s with turns := s.turns.drop 1, draws := s.draws + (1 - s.turns.length) } := by
  obtain ⟨a, rest, h, e⟩ | ⟨h, e⟩ := drawTurn_cases s <;> rw [e] <;> cases s <;> simp_all

/-- The coming turns depend on the inputs of the schedule and on the counter alone. -/
theorem comingTurns_congr (k : Nat) {s t : State} (h : t.turns = s.turns) (h' : t.draws = s.draws) :
    comingTurns k t = comingTurns k s := by
  induction k generalizing s t with
  | zero => rfl
  | succ k ih =>
    have e : (drawTurn t).1 = (drawTurn s).1 := by
      unfold drawTurn
      rw [h]
      split <;> simp [h']
    simp only [comingTurns]
    rw [e, ih]
    · simp [drawTurn_snd, h]
    · simp [drawTurn_snd, h, h']

/-- The coming turns one further on. -/
theorem comingTurns_succ (k : Nat) (s : State) :
    comingTurns (k + 1) s = (drawTurn s).1 :: comingTurns k (drawTurn s).2 := rfl

/-- Turns given as inputs are the coming turns. -/
theorem comingTurns_of_turns {l ts : List Agent} {s : State} (h : s.turns = l ++ ts) : comingTurns l.length s = l := by
  induction l generalizing s with
  | nil => rfl
  | cons a l ih =>
    have e : (drawTurn s).1 = a := by simp [drawTurn, h]
    rw [List.length_cons, comingTurns_succ, e, ih (s := (drawTurn s).2) (by simp [drawTurn_snd, h])]

end Sys2Proof.Machine
end

