-- ==== Sys2Proof/Laws/State.lean ====
section
/-!
SUPPORT. One lemma per field for every operation that updates the state: what it writes, and what it leaves.
-/

namespace Sys2Proof.Machine

/-! ## emit -/

@[simp] theorem emit_ctrl (e : Event) (s : State) : (emit e s).ctrl = s.ctrl := rfl
@[simp] theorem emit_status (e : Event) (s : State) : (emit e s).status = s.status := rfl
@[simp] theorem emit_busy (e : Event) (s : State) : (emit e s).busy = s.busy := rfl
@[simp] theorem emit_txs (e : Event) (s : State) : (emit e s).txs = s.txs := rfl
@[simp] theorem emit_rxb (e : Event) (s : State) : (emit e s).rxb = s.rxb := rfl
@[simp] theorem emit_armed (e : Event) (s : State) : (emit e s).armed = s.armed := rfl
@[simp] theorem emit_xcfg (e : Event) (s : State) : (emit e s).xcfg = s.xcfg := rfl
@[simp] theorem emit_lines (e : Event) (s : State) : (emit e s).lines = s.lines := rfl
@[simp] theorem emit_hist (e : Event) (s : State) : (emit e s).hist = s.hist ++ [e] := rfl
@[simp] theorem emit_fault (e : Event) (s : State) : (emit e s).fault = s.fault := rfl
@[simp] theorem emit_refused (e : Event) (s : State) : (emit e s).refused = s.refused := rfl
@[simp] theorem emit_params (e : Event) (s : State) : (emit e s).params = s.params := rfl
@[simp] theorem emit_result (e : Event) (s : State) : (emit e s).result = s.result := rfl
@[simp] theorem emit_prog (e : Event) (s : State) : (emit e s).prog = s.prog := rfl
@[simp] theorem emit_hpc (e : Event) (s : State) : (emit e s).hpc = s.hpc := rfl
@[simp] theorem emit_vars (e : Event) (s : State) : (emit e s).vars = s.vars := rfl
@[simp] theorem emit_turns (e : Event) (s : State) : (emit e s).turns = s.turns := rfl
@[simp] theorem emit_rxInputs (e : Event) (s : State) : (emit e s).rxInputs = s.rxInputs := rfl
@[simp] theorem emit_levelInputs (e : Event) (s : State) : (emit e s).levelInputs = s.levelInputs := rfl
@[simp] theorem emit_draws (e : Event) (s : State) : (emit e s).draws = s.draws := rfl

/-! ## endOp -/

@[simp] theorem endOp_ctrl (w : OpWord) (r : OpResult) (s : State) : (endOp w r s).ctrl = s.ctrl := rfl
@[simp] theorem endOp_status (w : OpWord) (r : OpResult) (s : State) : (endOp w r s).status = s.status := rfl
@[simp] theorem endOp_busy (w : OpWord) (r : OpResult) (s : State) : (endOp w r s).busy = s.busy := rfl
@[simp] theorem endOp_txs (w : OpWord) (r : OpResult) (s : State) : (endOp w r s).txs = s.txs := rfl
@[simp] theorem endOp_rxb (w : OpWord) (r : OpResult) (s : State) : (endOp w r s).rxb = s.rxb := rfl
@[simp] theorem endOp_armed (w : OpWord) (r : OpResult) (s : State) : (endOp w r s).armed = s.armed := rfl
@[simp] theorem endOp_xcfg (w : OpWord) (r : OpResult) (s : State) : (endOp w r s).xcfg = s.xcfg := rfl
@[simp] theorem endOp_lines (w : OpWord) (r : OpResult) (s : State) : (endOp w r s).lines = s.lines := rfl
@[simp] theorem endOp_hist (w : OpWord) (r : OpResult) (s : State) : (endOp w r s).hist = s.hist ++ [.op w r] := rfl
@[simp] theorem endOp_fault (w : OpWord) (r : OpResult) (s : State) : (endOp w r s).fault = s.fault := rfl
@[simp] theorem endOp_refused (w : OpWord) (r : OpResult) (s : State) : (endOp w r s).refused = s.refused := rfl
@[simp] theorem endOp_params (w : OpWord) (r : OpResult) (s : State) : (endOp w r s).params = s.params := rfl
@[simp] theorem endOp_result (w : OpWord) (r : OpResult) (s : State) : (endOp w r s).result = r := rfl
@[simp] theorem endOp_prog (w : OpWord) (r : OpResult) (s : State) : (endOp w r s).prog = s.prog := rfl
@[simp] theorem endOp_hpc (w : OpWord) (r : OpResult) (s : State) : (endOp w r s).hpc = s.hpc := rfl
@[simp] theorem endOp_vars (w : OpWord) (r : OpResult) (s : State) : (endOp w r s).vars = s.vars := rfl
@[simp] theorem endOp_turns (w : OpWord) (r : OpResult) (s : State) : (endOp w r s).turns = s.turns := rfl
@[simp] theorem endOp_rxInputs (w : OpWord) (r : OpResult) (s : State) : (endOp w r s).rxInputs = s.rxInputs := rfl
@[simp] theorem endOp_levelInputs (w : OpWord) (r : OpResult) (s : State) : (endOp w r s).levelInputs = s.levelInputs := rfl
@[simp] theorem endOp_draws (w : OpWord) (r : OpResult) (s : State) : (endOp w r s).draws = s.draws := rfl

/-! ## putLine -/

@[simp] theorem putLine_ctrl (l : LineId) (r : LineRec) (s : State) : (putLine l r s).ctrl = s.ctrl := rfl
@[simp] theorem putLine_status (l : LineId) (r : LineRec) (s : State) : (putLine l r s).status = s.status := rfl
@[simp] theorem putLine_busy (l : LineId) (r : LineRec) (s : State) : (putLine l r s).busy = s.busy := rfl
@[simp] theorem putLine_txs (l : LineId) (r : LineRec) (s : State) : (putLine l r s).txs = s.txs := rfl
@[simp] theorem putLine_rxb (l : LineId) (r : LineRec) (s : State) : (putLine l r s).rxb = s.rxb := rfl
@[simp] theorem putLine_armed (l : LineId) (r : LineRec) (s : State) : (putLine l r s).armed = s.armed := rfl
@[simp] theorem putLine_xcfg (l : LineId) (r : LineRec) (s : State) : (putLine l r s).xcfg = s.xcfg := rfl
@[simp] theorem putLine_lines (l : LineId) (r : LineRec) (s : State) : (putLine l r s).lines = s.lines.set l.toNat r := rfl
@[simp] theorem putLine_hist (l : LineId) (r : LineRec) (s : State) : (putLine l r s).hist = s.hist ++ [.line l r.dir r.latch] := rfl
@[simp] theorem putLine_fault (l : LineId) (r : LineRec) (s : State) : (putLine l r s).fault = s.fault := rfl
@[simp] theorem putLine_refused (l : LineId) (r : LineRec) (s : State) : (putLine l r s).refused = s.refused := rfl
@[simp] theorem putLine_params (l : LineId) (r : LineRec) (s : State) : (putLine l r s).params = s.params := rfl
@[simp] theorem putLine_result (l : LineId) (r : LineRec) (s : State) : (putLine l r s).result = s.result := rfl
@[simp] theorem putLine_prog (l : LineId) (r : LineRec) (s : State) : (putLine l r s).prog = s.prog := rfl
@[simp] theorem putLine_hpc (l : LineId) (r : LineRec) (s : State) : (putLine l r s).hpc = s.hpc := rfl
@[simp] theorem putLine_vars (l : LineId) (r : LineRec) (s : State) : (putLine l r s).vars = s.vars := rfl
@[simp] theorem putLine_turns (l : LineId) (r : LineRec) (s : State) : (putLine l r s).turns = s.turns := rfl
@[simp] theorem putLine_rxInputs (l : LineId) (r : LineRec) (s : State) : (putLine l r s).rxInputs = s.rxInputs := rfl
@[simp] theorem putLine_levelInputs (l : LineId) (r : LineRec) (s : State) : (putLine l r s).levelInputs = s.levelInputs := rfl
@[simp] theorem putLine_draws (l : LineId) (r : LineRec) (s : State) : (putLine l r s).draws = s.draws := rfl

/-! ## startExchange -/

@[simp] theorem startExchange_ctrl (v : Byte) (s : State) : (startExchange v s).ctrl = s.ctrl := rfl
@[simp] theorem startExchange_status (v : Byte) (s : State) : (startExchange v s).status = s.status := rfl
@[simp] theorem startExchange_busy (v : Byte) (s : State) : (startExchange v s).busy = true := rfl
@[simp] theorem startExchange_txs (v : Byte) (s : State) : (startExchange v s).txs = v := rfl
@[simp] theorem startExchange_rxb (v : Byte) (s : State) : (startExchange v s).rxb = s.rxb := rfl
@[simp] theorem startExchange_armed (v : Byte) (s : State) : (startExchange v s).armed = s.armed := rfl
@[simp] theorem startExchange_xcfg (v : Byte) (s : State) : (startExchange v s).xcfg = liveCfg s.ctrl s.status := rfl
@[simp] theorem startExchange_lines (v : Byte) (s : State) : (startExchange v s).lines = s.lines := rfl
@[simp] theorem startExchange_hist (v : Byte) (s : State) : (startExchange v s).hist = s.hist ++ [.start v (liveCfg s.ctrl s.status) s.lines] := rfl
@[simp] theorem startExchange_fault (v : Byte) (s : State) : (startExchange v s).fault = s.fault := rfl
@[simp] theorem startExchange_refused (v : Byte) (s : State) : (startExchange v s).refused = s.refused := rfl
@[simp] theorem startExchange_params (v : Byte) (s : State) : (startExchange v s).params = s.params := rfl
@[simp] theorem startExchange_result (v : Byte) (s : State) : (startExchange v s).result = s.result := rfl
@[simp] theorem startExchange_prog (v : Byte) (s : State) : (startExchange v s).prog = s.prog := rfl
@[simp] theorem startExchange_hpc (v : Byte) (s : State) : (startExchange v s).hpc = s.hpc := rfl
@[simp] theorem startExchange_vars (v : Byte) (s : State) : (startExchange v s).vars = s.vars := rfl
@[simp] theorem startExchange_turns (v : Byte) (s : State) : (startExchange v s).turns = s.turns := rfl
@[simp] theorem startExchange_rxInputs (v : Byte) (s : State) : (startExchange v s).rxInputs = s.rxInputs := rfl
@[simp] theorem startExchange_levelInputs (v : Byte) (s : State) : (startExchange v s).levelInputs = s.levelInputs := rfl
@[simp] theorem startExchange_draws (v : Byte) (s : State) : (startExchange v s).draws = s.draws := rfl

/-! ## completeWith -/

@[simp] theorem completeWith_ctrl (i : Byte) (s : State) : (completeWith i s).ctrl = s.ctrl := rfl
@[simp] theorem completeWith_status (i : Byte) (s : State) : (completeWith i s).status = statusPutTC true s.status := rfl
@[simp] theorem completeWith_busy (i : Byte) (s : State) : (completeWith i s).busy = false := rfl
@[simp] theorem completeWith_txs (i : Byte) (s : State) : (completeWith i s).txs = s.txs := rfl
@[simp] theorem completeWith_rxb (i : Byte) (s : State) : (completeWith i s).rxb = some i := rfl
@[simp] theorem completeWith_armed (i : Byte) (s : State) : (completeWith i s).armed = s.armed := rfl
@[simp] theorem completeWith_xcfg (i : Byte) (s : State) : (completeWith i s).xcfg = s.xcfg := rfl
@[simp] theorem completeWith_lines (i : Byte) (s : State) : (completeWith i s).lines = s.lines := rfl
@[simp] theorem completeWith_hist (i : Byte) (s : State) : (completeWith i s).hist = s.hist ++ [.done s.txs i] := rfl
@[simp] theorem completeWith_fault (i : Byte) (s : State) : (completeWith i s).fault = s.fault := rfl
@[simp] theorem completeWith_refused (i : Byte) (s : State) : (completeWith i s).refused = s.refused := rfl
@[simp] theorem completeWith_params (i : Byte) (s : State) : (completeWith i s).params = s.params := rfl
@[simp] theorem completeWith_result (i : Byte) (s : State) : (completeWith i s).result = s.result := rfl
@[simp] theorem completeWith_prog (i : Byte) (s : State) : (completeWith i s).prog = s.prog := rfl
@[simp] theorem completeWith_hpc (i : Byte) (s : State) : (completeWith i s).hpc = s.hpc := rfl
@[simp] theorem completeWith_vars (i : Byte) (s : State) : (completeWith i s).vars = s.vars := rfl
@[simp] theorem completeWith_turns (i : Byte) (s : State) : (completeWith i s).turns = s.turns := rfl
@[simp] theorem completeWith_rxInputs (i : Byte) (s : State) : (completeWith i s).rxInputs = s.rxInputs := rfl
@[simp] theorem completeWith_levelInputs (i : Byte) (s : State) : (completeWith i s).levelInputs = s.levelInputs := rfl
@[simp] theorem completeWith_draws (i : Byte) (s : State) : (completeWith i s).draws = s.draws := rfl

/-! ## setVar -/

@[simp] theorem setVar_ctrl (x : Var) (v : HostInt) (s : State) : (setVar x v s).ctrl = s.ctrl := rfl
@[simp] theorem setVar_status (x : Var) (v : HostInt) (s : State) : (setVar x v s).status = s.status := rfl
@[simp] theorem setVar_busy (x : Var) (v : HostInt) (s : State) : (setVar x v s).busy = s.busy := rfl
@[simp] theorem setVar_txs (x : Var) (v : HostInt) (s : State) : (setVar x v s).txs = s.txs := rfl
@[simp] theorem setVar_rxb (x : Var) (v : HostInt) (s : State) : (setVar x v s).rxb = s.rxb := rfl
@[simp] theorem setVar_armed (x : Var) (v : HostInt) (s : State) : (setVar x v s).armed = s.armed := rfl
@[simp] theorem setVar_xcfg (x : Var) (v : HostInt) (s : State) : (setVar x v s).xcfg = s.xcfg := rfl
@[simp] theorem setVar_lines (x : Var) (v : HostInt) (s : State) : (setVar x v s).lines = s.lines := rfl
@[simp] theorem setVar_hist (x : Var) (v : HostInt) (s : State) : (setVar x v s).hist = s.hist := rfl
@[simp] theorem setVar_fault (x : Var) (v : HostInt) (s : State) : (setVar x v s).fault = s.fault := rfl
@[simp] theorem setVar_refused (x : Var) (v : HostInt) (s : State) : (setVar x v s).refused = s.refused := rfl
@[simp] theorem setVar_params (x : Var) (v : HostInt) (s : State) : (setVar x v s).params = s.params := rfl
@[simp] theorem setVar_result (x : Var) (v : HostInt) (s : State) : (setVar x v s).result = s.result := rfl
@[simp] theorem setVar_prog (x : Var) (v : HostInt) (s : State) : (setVar x v s).prog = s.prog := rfl
@[simp] theorem setVar_hpc (x : Var) (v : HostInt) (s : State) : (setVar x v s).hpc = s.hpc := rfl
@[simp] theorem setVar_vars (x : Var) (v : HostInt) (s : State) : (setVar x v s).vars = insertVar x v s.vars := rfl
@[simp] theorem setVar_turns (x : Var) (v : HostInt) (s : State) : (setVar x v s).turns = s.turns := rfl
@[simp] theorem setVar_rxInputs (x : Var) (v : HostInt) (s : State) : (setVar x v s).rxInputs = s.rxInputs := rfl
@[simp] theorem setVar_levelInputs (x : Var) (v : HostInt) (s : State) : (setVar x v s).levelInputs = s.levelInputs := rfl
@[simp] theorem setVar_draws (x : Var) (v : HostInt) (s : State) : (setVar x v s).draws = s.draws := rfl

/-! ## advance -/

@[simp] theorem advance_ctrl (s : State) : (advance s).ctrl = s.ctrl := rfl
@[simp] theorem advance_status (s : State) : (advance s).status = s.status := rfl
@[simp] theorem advance_busy (s : State) : (advance s).busy = s.busy := rfl
@[simp] theorem advance_txs (s : State) : (advance s).txs = s.txs := rfl
@[simp] theorem advance_rxb (s : State) : (advance s).rxb = s.rxb := rfl
@[simp] theorem advance_armed (s : State) : (advance s).armed = s.armed := rfl
@[simp] theorem advance_xcfg (s : State) : (advance s).xcfg = s.xcfg := rfl
@[simp] theorem advance_lines (s : State) : (advance s).lines = s.lines := rfl
@[simp] theorem advance_hist (s : State) : (advance s).hist = s.hist := rfl
@[simp] theorem advance_fault (s : State) : (advance s).fault = s.fault := rfl
@[simp] theorem advance_refused (s : State) : (advance s).refused = s.refused := rfl
@[simp] theorem advance_params (s : State) : (advance s).params = s.params := rfl
@[simp] theorem advance_result (s : State) : (advance s).result = s.result := rfl
@[simp] theorem advance_prog (s : State) : (advance s).prog = s.prog := rfl
@[simp] theorem advance_hpc (s : State) : (advance s).hpc = s.hpc + 1 := rfl
@[simp] theorem advance_vars (s : State) : (advance s).vars = s.vars := rfl
@[simp] theorem advance_turns (s : State) : (advance s).turns = s.turns := rfl
@[simp] theorem advance_rxInputs (s : State) : (advance s).rxInputs = s.rxInputs := rfl
@[simp] theorem advance_levelInputs (s : State) : (advance s).levelInputs = s.levelInputs := rfl
@[simp] theorem advance_draws (s : State) : (advance s).draws = s.draws := rfl

/-! ## clearIfArmed -/

@[simp] theorem clearIfArmed_ctrl (s : State) : (clearIfArmed s).ctrl = s.ctrl := by
  unfold clearIfArmed; split <;> rfl
@[simp] theorem clearIfArmed_status (s : State) : (clearIfArmed s).status = (if s.armed then statusPutTC false s.status else s.status) := by
  unfold clearIfArmed; split <;> rfl
@[simp] theorem clearIfArmed_busy (s : State) : (clearIfArmed s).busy = s.busy := by
  unfold clearIfArmed; split <;> rfl
@[simp] theorem clearIfArmed_txs (s : State) : (clearIfArmed s).txs = s.txs := by
  unfold clearIfArmed; split <;> rfl
@[simp] theorem clearIfArmed_rxb (s : State) : (clearIfArmed s).rxb = s.rxb := by
  unfold clearIfArmed; split <;> rfl
@[simp] theorem clearIfArmed_armed (s : State) : (clearIfArmed s).armed = false := by
  unfold clearIfArmed; cases h : s.armed <;> simp_all
@[simp] theorem clearIfArmed_xcfg (s : State) : (clearIfArmed s).xcfg = s.xcfg := by
  unfold clearIfArmed; split <;> rfl
@[simp] theorem clearIfArmed_lines (s : State) : (clearIfArmed s).lines = s.lines := by
  unfold clearIfArmed; split <;> rfl
@[simp] theorem clearIfArmed_hist (s : State) : (clearIfArmed s).hist = s.hist := by
  unfold clearIfArmed; split <;> rfl
@[simp] theorem clearIfArmed_fault (s : State) : (clearIfArmed s).fault = s.fault := by
  unfold clearIfArmed; split <;> rfl
@[simp] theorem clearIfArmed_refused (s : State) : (clearIfArmed s).refused = s.refused := by
  unfold clearIfArmed; split <;> rfl
@[simp] theorem clearIfArmed_params (s : State) : (clearIfArmed s).params = s.params := by
  unfold clearIfArmed; split <;> rfl
@[simp] theorem clearIfArmed_result (s : State) : (clearIfArmed s).result = s.result := by
  unfold clearIfArmed; split <;> rfl
@[simp] theorem clearIfArmed_prog (s : State) : (clearIfArmed s).prog = s.prog := by
  unfold clearIfArmed; split <;> rfl
@[simp] theorem clearIfArmed_hpc (s : State) : (clearIfArmed s).hpc = s.hpc := by
  unfold clearIfArmed; split <;> rfl
@[simp] theorem clearIfArmed_vars (s : State) : (clearIfArmed s).vars = s.vars := by
  unfold clearIfArmed; split <;> rfl
@[simp] theorem clearIfArmed_turns (s : State) : (clearIfArmed s).turns = s.turns := by
  unfold clearIfArmed; split <;> rfl
@[simp] theorem clearIfArmed_rxInputs (s : State) : (clearIfArmed s).rxInputs = s.rxInputs := by
  unfold clearIfArmed; split <;> rfl
@[simp] theorem clearIfArmed_levelInputs (s : State) : (clearIfArmed s).levelInputs = s.levelInputs := by
  unfold clearIfArmed; split <;> rfl
@[simp] theorem clearIfArmed_draws (s : State) : (clearIfArmed s).draws = s.draws := by
  unfold clearIfArmed; split <;> rfl

/-! ## drawByte -/

@[simp] theorem drawByte_ctrl (s : State) : ((drawByte s).2).ctrl = s.ctrl := by
  unfold drawByte; split <;> rfl
@[simp] theorem drawByte_status (s : State) : ((drawByte s).2).status = s.status := by
  unfold drawByte; split <;> rfl
@[simp] theorem drawByte_busy (s : State) : ((drawByte s).2).busy = s.busy := by
  unfold drawByte; split <;> rfl
@[simp] theorem drawByte_txs (s : State) : ((drawByte s).2).txs = s.txs := by
  unfold drawByte; split <;> rfl
@[simp] theorem drawByte_rxb (s : State) : ((drawByte s).2).rxb = s.rxb := by
  unfold drawByte; split <;> rfl
@[simp] theorem drawByte_armed (s : State) : ((drawByte s).2).armed = s.armed := by
  unfold drawByte; split <;> rfl
@[simp] theorem drawByte_xcfg (s : State) : ((drawByte s).2).xcfg = s.xcfg := by
  unfold drawByte; split <;> rfl
@[simp] theorem drawByte_lines (s : State) : ((drawByte s).2).lines = s.lines := by
  unfold drawByte; split <;> rfl
@[simp] theorem drawByte_hist (s : State) : ((drawByte s).2).hist = s.hist := by
  unfold drawByte; split <;> rfl
@[simp] theorem drawByte_fault (s : State) : ((drawByte s).2).fault = s.fault := by
  unfold drawByte; split <;> rfl
@[simp] theorem drawByte_refused (s : State) : ((drawByte s).2).refused = s.refused := by
  unfold drawByte; split <;> rfl
@[simp] theorem drawByte_params (s : State) : ((drawByte s).2).params = s.params := by
  unfold drawByte; split <;> rfl
@[simp] theorem drawByte_result (s : State) : ((drawByte s).2).result = s.result := by
  unfold drawByte; split <;> rfl
@[simp] theorem drawByte_prog (s : State) : ((drawByte s).2).prog = s.prog := by
  unfold drawByte; split <;> rfl
@[simp] theorem drawByte_hpc (s : State) : ((drawByte s).2).hpc = s.hpc := by
  unfold drawByte; split <;> rfl
@[simp] theorem drawByte_vars (s : State) : ((drawByte s).2).vars = s.vars := by
  unfold drawByte; split <;> rfl
@[simp] theorem drawByte_turns (s : State) : ((drawByte s).2).turns = s.turns := by
  unfold drawByte; split <;> rfl
@[simp] theorem drawByte_rxInputs (s : State) : ((drawByte s).2).rxInputs = s.rxInputs.tail := by
  unfold drawByte; split <;> simp_all
@[simp] theorem drawByte_levelInputs (s : State) : ((drawByte s).2).levelInputs = s.levelInputs := by
  unfold drawByte; split <;> rfl
@[simp] theorem drawByte_draws (s : State) : ((drawByte s).2).draws = s.draws := by
  unfold drawByte; split <;> rfl

/-! ## drawLevel -/

@[simp] theorem drawLevel_ctrl (l : LineId) (s : State) : ((drawLevel l s).2).ctrl = s.ctrl := by
  unfold drawLevel; split <;> rfl
@[simp] theorem drawLevel_status (l : LineId) (s : State) : ((drawLevel l s).2).status = s.status := by
  unfold drawLevel; split <;> rfl
@[simp] theorem drawLevel_busy (l : LineId) (s : State) : ((drawLevel l s).2).busy = s.busy := by
  unfold drawLevel; split <;> rfl
@[simp] theorem drawLevel_txs (l : LineId) (s : State) : ((drawLevel l s).2).txs = s.txs := by
  unfold drawLevel; split <;> rfl
@[simp] theorem drawLevel_rxb (l : LineId) (s : State) : ((drawLevel l s).2).rxb = s.rxb := by
  unfold drawLevel; split <;> rfl
@[simp] theorem drawLevel_armed (l : LineId) (s : State) : ((drawLevel l s).2).armed = s.armed := by
  unfold drawLevel; split <;> rfl
@[simp] theorem drawLevel_xcfg (l : LineId) (s : State) : ((drawLevel l s).2).xcfg = s.xcfg := by
  unfold drawLevel; split <;> rfl
@[simp] theorem drawLevel_lines (l : LineId) (s : State) : ((drawLevel l s).2).lines = s.lines := by
  unfold drawLevel; split <;> rfl
@[simp] theorem drawLevel_hist (l : LineId) (s : State) : ((drawLevel l s).2).hist = s.hist := by
  unfold drawLevel; split <;> rfl
@[simp] theorem drawLevel_fault (l : LineId) (s : State) : ((drawLevel l s).2).fault = s.fault := by
  unfold drawLevel; split <;> rfl
@[simp] theorem drawLevel_refused (l : LineId) (s : State) : ((drawLevel l s).2).refused = s.refused := by
  unfold drawLevel; split <;> rfl
@[simp] theorem drawLevel_params (l : LineId) (s : State) : ((drawLevel l s).2).params = s.params := by
  unfold drawLevel; split <;> rfl
@[simp] theorem drawLevel_result (l : LineId) (s : State) : ((drawLevel l s).2).result = s.result := by
  unfold drawLevel; split <;> rfl
@[simp] theorem drawLevel_prog (l : LineId) (s : State) : ((drawLevel l s).2).prog = s.prog := by
  unfold drawLevel; split <;> rfl
@[simp] theorem drawLevel_hpc (l : LineId) (s : State) : ((drawLevel l s).2).hpc = s.hpc := by
  unfold drawLevel; split <;> rfl
@[simp] theorem drawLevel_vars (l : LineId) (s : State) : ((drawLevel l s).2).vars = s.vars := by
  unfold drawLevel; split <;> rfl
@[simp] theorem drawLevel_turns (l : LineId) (s : State) : ((drawLevel l s).2).turns = s.turns := by
  unfold drawLevel; split <;> rfl
@[simp] theorem drawLevel_rxInputs (l : LineId) (s : State) : ((drawLevel l s).2).rxInputs = s.rxInputs := by
  unfold drawLevel; split <;> rfl
@[simp] theorem drawLevel_levelInputs (l : LineId) (s : State) : ((drawLevel l s).2).levelInputs = s.levelInputs.tail := by
  unfold drawLevel; split <;> simp_all
@[simp] theorem drawLevel_draws (l : LineId) (s : State) : ((drawLevel l s).2).draws = s.draws := by
  unfold drawLevel; split <;> rfl

/-! ## drawTurn -/

@[simp] theorem drawTurn_ctrl (s : State) : ((drawTurn s).2).ctrl = s.ctrl := by
  unfold drawTurn; split <;> rfl
@[simp] theorem drawTurn_status (s : State) : ((drawTurn s).2).status = s.status := by
  unfold drawTurn; split <;> rfl
@[simp] theorem drawTurn_busy (s : State) : ((drawTurn s).2).busy = s.busy := by
  unfold drawTurn; split <;> rfl
@[simp] theorem drawTurn_txs (s : State) : ((drawTurn s).2).txs = s.txs := by
  unfold drawTurn; split <;> rfl
@[simp] theorem drawTurn_rxb (s : State) : ((drawTurn s).2).rxb = s.rxb := by
  unfold drawTurn; split <;> rfl
@[simp] theorem drawTurn_armed (s : State) : ((drawTurn s).2).armed = s.armed := by
  unfold drawTurn; split <;> rfl
@[simp] theorem drawTurn_xcfg (s : State) : ((drawTurn s).2).xcfg = s.xcfg := by
  unfold drawTurn; split <;> rfl
@[simp] theorem drawTurn_lines (s : State) : ((drawTurn s).2).lines = s.lines := by
  unfold drawTurn; split <;> rfl
@[simp] theorem drawTurn_hist (s : State) : ((drawTurn s).2).hist = s.hist := by
  unfold drawTurn; split <;> rfl
@[simp] theorem drawTurn_fault (s : State) : ((drawTurn s).2).fault = s.fault := by
  unfold drawTurn; split <;> rfl
@[simp] theorem drawTurn_refused (s : State) : ((drawTurn s).2).refused = s.refused := by
  unfold drawTurn; split <;> rfl
@[simp] theorem drawTurn_params (s : State) : ((drawTurn s).2).params = s.params := by
  unfold drawTurn; split <;> rfl
@[simp] theorem drawTurn_result (s : State) : ((drawTurn s).2).result = s.result := by
  unfold drawTurn; split <;> rfl
@[simp] theorem drawTurn_prog (s : State) : ((drawTurn s).2).prog = s.prog := by
  unfold drawTurn; split <;> rfl
@[simp] theorem drawTurn_hpc (s : State) : ((drawTurn s).2).hpc = s.hpc := by
  unfold drawTurn; split <;> rfl
@[simp] theorem drawTurn_vars (s : State) : ((drawTurn s).2).vars = s.vars := by
  unfold drawTurn; split <;> rfl
@[simp] theorem drawTurn_turns (s : State) : ((drawTurn s).2).turns = s.turns.tail := by
  unfold drawTurn; split <;> simp_all
@[simp] theorem drawTurn_rxInputs (s : State) : ((drawTurn s).2).rxInputs = s.rxInputs := by
  unfold drawTurn; split <;> rfl
@[simp] theorem drawTurn_levelInputs (s : State) : ((drawTurn s).2).levelInputs = s.levelInputs := by
  unfold drawTurn; split <;> rfl

/-! ## observeLevel -/

@[simp] theorem observeLevel_ctrl (l : LineId) (s : State) : ((observeLevel l s).2).ctrl = s.ctrl := by
  unfold observeLevel; split
  · rfl
  · exact drawLevel_ctrl l s
@[simp] theorem observeLevel_status (l : LineId) (s : State) : ((observeLevel l s).2).status = s.status := by
  unfold observeLevel; split
  · rfl
  · exact drawLevel_status l s
@[simp] theorem observeLevel_busy (l : LineId) (s : State) : ((observeLevel l s).2).busy = s.busy := by
  unfold observeLevel; split
  · rfl
  · exact drawLevel_busy l s
@[simp] theorem observeLevel_txs (l : LineId) (s : State) : ((observeLevel l s).2).txs = s.txs := by
  unfold observeLevel; split
  · rfl
  · exact drawLevel_txs l s
@[simp] theorem observeLevel_rxb (l : LineId) (s : State) : ((observeLevel l s).2).rxb = s.rxb := by
  unfold observeLevel; split
  · rfl
  · exact drawLevel_rxb l s
@[simp] theorem observeLevel_armed (l : LineId) (s : State) : ((observeLevel l s).2).armed = s.armed := by
  unfold observeLevel; split
  · rfl
  · exact drawLevel_armed l s
@[simp] theorem observeLevel_xcfg (l : LineId) (s : State) : ((observeLevel l s).2).xcfg = s.xcfg := by
  unfold observeLevel; split
  · rfl
  · exact drawLevel_xcfg l s
@[simp] theorem observeLevel_lines (l : LineId) (s : State) : ((observeLevel l s).2).lines = s.lines := by
  unfold observeLevel; split
  · rfl
  · exact drawLevel_lines l s
@[simp] theorem observeLevel_hist (l : LineId) (s : State) : ((observeLevel l s).2).hist = s.hist := by
  unfold observeLevel; split
  · rfl
  · exact drawLevel_hist l s
@[simp] theorem observeLevel_fault (l : LineId) (s : State) : ((observeLevel l s).2).fault = s.fault := by
  unfold observeLevel; split
  · rfl
  · exact drawLevel_fault l s
@[simp] theorem observeLevel_refused (l : LineId) (s : State) : ((observeLevel l s).2).refused = s.refused := by
  unfold observeLevel; split
  · rfl
  · exact drawLevel_refused l s
@[simp] theorem observeLevel_params (l : LineId) (s : State) : ((observeLevel l s).2).params = s.params := by
  unfold observeLevel; split
  · rfl
  · exact drawLevel_params l s
@[simp] theorem observeLevel_result (l : LineId) (s : State) : ((observeLevel l s).2).result = s.result := by
  unfold observeLevel; split
  · rfl
  · exact drawLevel_result l s
@[simp] theorem observeLevel_prog (l : LineId) (s : State) : ((observeLevel l s).2).prog = s.prog := by
  unfold observeLevel; split
  · rfl
  · exact drawLevel_prog l s
@[simp] theorem observeLevel_hpc (l : LineId) (s : State) : ((observeLevel l s).2).hpc = s.hpc := by
  unfold observeLevel; split
  · rfl
  · exact drawLevel_hpc l s
@[simp] theorem observeLevel_vars (l : LineId) (s : State) : ((observeLevel l s).2).vars = s.vars := by
  unfold observeLevel; split
  · rfl
  · exact drawLevel_vars l s
@[simp] theorem observeLevel_turns (l : LineId) (s : State) : ((observeLevel l s).2).turns = s.turns := by
  unfold observeLevel; split
  · rfl
  · exact drawLevel_turns l s
@[simp] theorem observeLevel_rxInputs (l : LineId) (s : State) : ((observeLevel l s).2).rxInputs = s.rxInputs := by
  unfold observeLevel; split
  · rfl
  · exact drawLevel_rxInputs l s
@[simp] theorem observeLevel_draws (l : LineId) (s : State) : ((observeLevel l s).2).draws = s.draws := by
  unfold observeLevel; split
  · rfl
  · exact drawLevel_draws l s

end Sys2Proof.Machine
end

