-- ==== Sys2Proof/Laws/Step.lean ====
section
/-!
SUPPORT. Everything a host step, a host turn and a step of the machine can do, said once (00_scope.md R10, R11, R16).
-/

namespace Sys2Proof.Machine

/-- `t` differs from `u` at most in the host's own side: its index, its variables and the free-value counter. -/
def HostOnly (u t : State) : Prop := t = { u with hpc := t.hpc, vars := t.vars, draws := t.draws }

theorem HostOnly.refl (u : State) : HostOnly u u := rfl

theorem HostOnly.trans {u v t : State} (h : HostOnly u v) (k : HostOnly v t) : HostOnly u t := by
  unfold HostOnly at *
  rw [k, h]

theorem hostOnly_advance (u : State) : HostOnly u (advance u) := rfl

theorem hostOnly_setVar (x : Var) (v : HostInt) (u : State) : HostOnly u (setVar x v u) := rfl

theorem hostOnly_bindResult (dst : Option Var) (u : State) : HostOnly u (bindResult dst u) := by
  unfold bindResult
  split
  · exact hostOnly_setVar _ _ _
  · exact HostOnly.refl u
  · exact HostOnly.refl u

theorem hostOnly_pollNext (u : State) : HostOnly u (pollNext u) := by
  unfold pollNext
  split
  · split
    · exact hostOnly_advance u
    · exact HostOnly.refl u
  · exact HostOnly.refl u
  · exact HostOnly.refl u

/-- A word performed with a next state is an operation performed. -/
theorem performWord_next {w : OpWord} {s u : State} (h : performWord w s = .next u) :
    ∃ i, decode w = .ok i ∧ exec i s = .next u := by
  unfold performWord at h
  split at h
  · exact ⟨_, ‹_›, h⟩
  · rw [perform_eq_next] at h
    simp at h

/-- What a host read can do: one operation, or nothing to the block. -/
theorem loadAccess_next {x : Var} {addr n : Nat} {s t : State} (h : loadAccess x addr n s = .next t) :
    (∃ i u, exec i s = .next u ∧ HostOnly u t) ∨ HostOnly s t := by
  unfold loadAccess at h
  split at h
  · split at h
    · split at h
      · obtain ⟨u, hu, rfl⟩ := (andThen_eq_next _ _ _).1 h
        exact .inl ⟨_, u, hu, hostOnly_bindResult _ _⟩
      · obtain ⟨-, -, rfl⟩ := (perform_eq_next _ _ _ _).1 h
        exact .inr (HostOnly.refl _)
    · rw [perform_eq_next] at h
      simp at h
  · obtain ⟨-, -, rfl⟩ := (perform_eq_next _ _ _ _).1 h
    exact .inr rfl

/-- What a host write can do: one operation, or nothing at all. -/
theorem storeAccess_next {addr n : Nat} {v : HostInt} {s t : State} (h : storeAccess addr n v s = .next t) :
    (∃ i, exec i s = .next t) ∨ t = s := by
  unfold storeAccess at h
  split at h
  · split at h
    · split at h
      · exact .inl ⟨_, h⟩
      · exact .inr ((perform_eq_next _ _ _ _).1 h).2.2
    · rw [perform_eq_next] at h
      simp at h
  · exact .inr ((perform_eq_next _ _ _ _).1 h).2.2

/-- What a host step can do: one operation and host work, or host work alone. -/
theorem runHostStep_next {g : HostStep} {s t : State} (h : runHostStep g s = .next t) :
    (∃ i u, exec i s = .next u ∧ HostOnly u t) ∨ HostOnly s t := by
  cases g with
  | op dst w =>
    obtain ⟨u, hu, rfl⟩ := (andThen_eq_next _ _ _).1 h
    obtain ⟨i, -, hi⟩ := performWord_next hu
    exact .inl ⟨i, u, hi, (hostOnly_bindResult dst u).trans (hostOnly_advance _)⟩
  | wr r e =>
    obtain ⟨u, hu, rfl⟩ := (andThen_eq_next _ _ _).1 h
    exact .inl ⟨_, u, hu, hostOnly_advance u⟩
  | poll =>
    obtain ⟨u, hu, rfl⟩ := (andThen_eq_next _ _ _).1 h
    exact .inl ⟨_, u, hu, hostOnly_pollNext u⟩
  | compute x e =>
    obtain ⟨-, -, rfl⟩ := (perform_eq_next _ _ _ _).1 h
    exact .inr rfl
  | load x addr n =>
    obtain ⟨u, hu, rfl⟩ := (andThen_eq_next _ _ _).1 h
    rcases loadAccess_next hu with ⟨i, v, hv, hvu⟩ | hs
    · exact .inl ⟨i, v, hv, hvu.trans (hostOnly_advance u)⟩
    · exact .inr (hs.trans (hostOnly_advance u))
  | store addr n e =>
    obtain ⟨u, hu, rfl⟩ := (andThen_eq_next _ _ _).1 h
    rcases storeAccess_next hu with ⟨i, hi⟩ | rfl
    · exact .inl ⟨i, u, hi, hostOnly_advance u⟩
    · exact .inr (hostOnly_advance _)

/-- What a host turn can do: one operation and host work, or host work alone. -/
theorem hostTurn_next {s t : State} (h : hostTurn s = .next t) :
    (∃ i u, exec i s = .next u ∧ HostOnly u t) ∨ HostOnly s t := by
  unfold hostTurn at h
  split at h
  · exact runHostStep_next h
  · obtain ⟨-, -, rfl⟩ := (perform_eq_next _ _ _ _).1 h
    exact .inr (HostOnly.refl _)

/-- A step with a next state: the completion of the exchange in progress, or the host's turn. -/
theorem step_next_turn {s t : State} (h : step s = .next t) :
    isLive s = true ∧
    ((s.busy = true ∧ t = complete (drawTurn s).2) ∨
      ∃ s0, (s0 = s ∧ s.busy = false ∨ s0 = (drawTurn s).2 ∧ s.busy = true) ∧ hostTurn s0 = .next t) := by
  unfold step nextStep at h
  split at h
  · refine ⟨‹_›, ?_⟩
    split at h
    · split at h
      · cases h
        exact .inl ⟨‹_›, rfl⟩
      · exact .inr ⟨_, .inr ⟨rfl, ‹_›⟩, h⟩
    · exact .inr ⟨s, .inl ⟨rfl, by simpa using ‹¬ s.busy = true›⟩, h⟩
  · cases h

/-- Everything a step with a next state can do: the completion of the exchange in progress, or the host's turn, with or
without an operation. -/
theorem step_next {s t : State} (h : step s = .next t) :
    isLive s = true ∧
    ((s.busy = true ∧ t = complete (drawTurn s).2) ∨
      ∃ s0, (s0 = s ∧ s.busy = false ∨ s0 = (drawTurn s).2 ∧ s.busy = true) ∧
        ((∃ i u, exec i s0 = .next u ∧ HostOnly u t) ∨ HostOnly s0 t)) := by
  obtain ⟨hl, h | ⟨s0, h0, h⟩⟩ := step_next_turn h
  · exact ⟨hl, .inl h⟩
  · exact ⟨hl, .inr ⟨s0, h0, hostTurn_next h⟩⟩

end Sys2Proof.Machine
end

