-- ==== Sys2Proof/Laws/Vars.lean ====
section
/-!
SUPPORT. Host variables: a variable just bound reads as bound, a binding leaves the others, and the list keeps its
canonical form.
-/

namespace Sys2Proof.Machine

theorem lookupVar_insertVar_same (x : Var) (v : HostInt) (vs : List (Var × HostInt)) :
    lookupVar x (insertVar x v vs) = v := by
  induction vs with
  | nil => simp [insertVar, lookupVar]
  | cons p rest ih =>
    obtain ⟨y, u⟩ := p
    unfold insertVar
    split
    · simp [lookupVar]
    · split
      · simp [lookupVar]
      · simp [lookupVar, *]

theorem lookupVar_insertVar_other {x y : Var} (h : y ≠ x) (v : HostInt) (vs : List (Var × HostInt)) :
    lookupVar y (insertVar x v vs) = lookupVar y vs := by
  induction vs with
  | nil => simp [insertVar, lookupVar, h]
  | cons p rest ih =>
    obtain ⟨z, u⟩ := p
    unfold insertVar
    split
    · simp [lookupVar, h]
    · split
      · rename_i hz
        subst hz
        simp [lookupVar, h]
      · simp [lookupVar, ih]

@[simp] theorem getVar_setVar_same (x : Var) (v : HostInt) (s : State) : getVar x (setVar x v s) = v :=
  lookupVar_insertVar_same x v s.vars

theorem getVar_setVar_other {x y : Var} (h : y ≠ x) (v : HostInt) (s : State) : getVar y (setVar x v s) = getVar y s :=
  lookupVar_insertVar_other h v s.vars

/-- The tail of a canonical list is canonical. -/
theorem varsWf_tail {p : Var × HostInt} {vs : List (Var × HostInt)} (h : varsWf (p :: vs) = true) : varsWf vs = true := by
  cases vs with
  | nil => rfl
  | cons q rest => simp [varsWf] at h; exact h.2

/-- Binding a variable keeps the canonical form. -/
theorem varsWf_insertVar (x : Var) (v : HostInt) (vs : List (Var × HostInt)) (h : varsWf vs = true) :
    varsWf (insertVar x v vs) = true := by
  induction vs with
  | nil => rfl
  | cons p rest ih =>
    obtain ⟨y, u⟩ := p
    have ht := ih (varsWf_tail h)
    by_cases h1 : x < y
    · simp [insertVar, h1, varsWf, h]
    · by_cases h2 : x = y
      · subst h2
        cases rest with
        | nil => simp [insertVar, varsWf]
        | cons q tl => simp [varsWf] at h; simp [insertVar, varsWf, h]
      · have hlt : y < x := Nat.lt_of_le_of_ne (Nat.le_of_not_lt h1) (Ne.symm h2)
        cases rest with
        | nil => simp [insertVar, h1, h2, varsWf, hlt]
        | cons q tl =>
          obtain ⟨z, w⟩ := q
          simp [varsWf] at h
          by_cases h3 : x < z
          · simp [insertVar, h1, h2, h3, varsWf, hlt, h.2]
          · by_cases h4 : x = z
            · subst h4
              simp only [insertVar, h1, h2, if_false, Nat.lt_irrefl, if_true] at ht ⊢
              simp [varsWf, hlt, ht]
            · simp only [insertVar, h1, h2, h3, h4, if_false] at ht ⊢
              simp [varsWf, h.1, ht]

end Sys2Proof.Machine
end

