-- ==== Sys2Proof/Tests/Slice0.lean ====
section
/-!
SUPPORT. The model's own tests: well-formedness, words written out from 30_encoding.md, the vectors of 95_test_vectors.md 2.1
to 2.4 by their ids, the reset state, and for every statement with hypotheses a state and operands that meet them.
-/

namespace Sys2Proof.Tests

open Sys2Proof Sys2Proof.Machine

/-! ## States of the vectors -/

/-- A step's outcome is a next state of which `p` holds. -/
def nextIs (o : Out) (p : State → Bool) : Bool :=
  match o with
  | .next t => p t
  | .fault _ => false
  | .refused _ => false

/-- A step's outcome is the fault `f`. -/
def faultIs (o : Out) (f : Fault) : Bool :=
  match o with
  | .next _ => false
  | .fault g => f == g
  | .refused _ => false

/-- A step's outcome is the refusal `r`. -/
def refusedIs (o : Out) (r : Refusal) : Bool :=
  match o with
  | .next _ => false
  | .fault _ => false
  | .refused g => r == g

def outHigh : LineRec := { dir := .out, latch := .high }
def outLow : LineRec := { dir := .out, latch := .low }

/-- Configured(0, 1) of 95_test_vectors.md, its history left out. -/
def conf : State :=
  { State.reset with
    ctrl := 0x51#8
    lines := ((((List.replicate 20 resetLine).set 9 outHigh).set 13 outLow).set 11 outLow).set 10 outLow }

/-- The busy state of V-D5: Configured(0, 1) and `wr.data 0x12`. -/
def busy : State :=
  { conf with busy := true, txs := 0x12#8, xcfg := { cpol := false, cpha := false, rate := 1#2, dbl := false } }

/-- V-D7: the exchange of V-D5 complete, not armed. -/
def done : State := { conf with txs := 0x12#8, rxb := some 0x13#8, status := 0x80#8 }

/-- V-D9's "before": V-D7 and a status read. -/
def armed : State := { done with armed := true }

/-- A state about to run a host program. -/
def running (s : State) (p : List HostStep) : State := { s with prog := p, hpc := 0 }

/-! ## Well-formedness: an ill-formed term for each check -/

theorem test_wf_op : wordOpAssigned 0x0000#16 = false ∧ wordOpAssigned 0xA000#16 = false ∧ wordLegal 0xF000#16 = false := by
  decide
theorem test_wf_z4 : wordZ4 0x1151#16 = false ∧ wordLegal 0x5F12#16 = false := by decide
theorem test_wf_readImm : wordReadImm 0x2001#16 = false ∧ wordLegal 0x40FF#16 = false := by decide
theorem test_wf_z3 : wordZ3 0x7093#16 = false ∧ wordLegal 0x809F#16 = false := by decide
theorem test_wf_getVal : wordGetVal 0x9091#16 = false ∧ wordLegal 0x9091#16 = false := by decide
theorem test_wf_legal : wordLegal 0x7FF1#16 = true ∧ wordLegal 0x9090#16 = true ∧ wordLegal 0x6000#16 = true := by decide
theorem test_wf_hostStep :
    HostStep.wf (.op none 0xA000#16) = false ∧ HostStep.wf (.op (some 0) 0x1051#16) = false ∧
    HostStep.wf (.load 0 0x4C 0) = false ∧ HostStep.wf (.store 0x4C 0 (.lit 0)) = false ∧
    HostStep.wf (.op (some 0) 0x6000#16) = true := by decide
theorem test_wf_params :
    ({ Params.informative with addrData := 0x4C } : Params).addrsDistinct = false ∧
    ({ Params.informative with ss := 13 } : Params).linesDistinct = false ∧
    lineCountOk 0 = false ∧ lineCountOk 257 = false ∧ Params.informative.linesBelow 13 = false ∧
    Params.informative.wf 20 = true := by decide

/-! ## Decoding: words written out from the formats (95_test_vectors.md 2.1) -/

theorem test_decode_registers :
    decode 0b0001000001010001#16 = .ok (.wrCtrl 0x51#8) ∧ decode 0b0010000000000000#16 = .ok .rdCtrl ∧
    decode 0b0011000000000001#16 = .ok (.wrStatus 0x01#8) ∧ decode 0b0100000000000000#16 = .ok .rdStatus ∧
    decode 0b0101000000010010#16 = .ok (.wrData 0x12#8) ∧ decode 0b0110000000000000#16 = .ok .rdData := by decide
theorem test_decode_lines :
    decode 0b0111000010010001#16 = .ok (.lineDir 9#8 .out) ∧ decode 0b0111000010010000#16 = .ok (.lineDir 9#8 .inp) ∧
    decode 0b1000000010010001#16 = .ok (.lineSet 9#8 .high) ∧ decode 0b1000000010010000#16 = .ok (.lineSet 9#8 .low) ∧
    decode 0b1001000010010000#16 = .ok (.lineGet 9#8) ∧ decode 0x7FF1#16 = .ok (.lineDir 255#8 .out) := by decide
theorem test_decode_illegal :
    [0x0000#16, 0x1151#16, 0x2001#16, 0x40FF#16, 0x5F12#16, 0x6100#16, 0x7093#16, 0x809F#16, 0x9091#16, 0xA000#16,
      0xFFFF#16].all (fun w => decode w == .error .illegalOperation) = true := by decide
theorem test_encode :
    encode (.wrCtrl 0xFF#8) = 0x10FF#16 ∧ encode (.lineDir 13#8 .inp) = 0x70D0#16 ∧
    encode (.lineSet 255#8 .high) = 0x8FF1#16 ∧ encode (.lineGet 19#8) = 0x9130#16 := by decide
theorem test_decodeTableWord :
    decodeTableWord 16 0x5012 = some (.wrData 0x12#8) ∧ decodeTableWord 16 0xA000 = none ∧
    decodeTableWord 8 0x5012 = none := by decide

/-! ## The vectors of 95_test_vectors.md 2.2 to 2.4 -/

/-- V-C1, V-C4, V-C2. -/
theorem test_wrCtrl :
    faultIs (exec (.wrCtrl 0x51#8) State.reset) (.masterModeNotHeld 0x1051#16) = true ∧
    nextIs (exec (.wrCtrl 0x41#8) State.reset) (fun t => t.ctrl == 0x41#8) = true ∧
    nextIs (exec (.wrCtrl 0x5E#8) conf) (fun t => t.ctrl == 0x5E#8 && t.lines == conf.lines) = true := by decide
/-- V-C6, V-C7, V-C8, V-C9: the order of the checks. -/
theorem test_wrCtrl_order :
    refusedIs (exec (.wrCtrl 0xA0#8) State.reset) (.interruptEnable 0x10A0#16) = true ∧
    refusedIs (exec (.wrCtrl 0x70#8) busy) (.lsbFirst 0x1070#16) = true ∧
    faultIs (exec (.wrCtrl 0x51#8) busy) (.configWhileBusy 0x1051#16) = true ∧
    refusedIs (exec (.wrCtrl 0xD1#8) busy) (.interruptEnable 0x10D1#16) = true := by decide
/-- V-C11, V-C12. -/
theorem test_rdCtrl :
    nextIs (exec .rdCtrl { conf with ctrl := 0x5E#8 }) (fun t => t.result == .byte 0x5E#8 && t.ctrl == 0x5E#8) = true ∧
    nextIs (exec .rdCtrl State.reset) (fun t => t.result == .byte 0x00#8) = true := by decide
/-- V-S1, V-S2, V-S3. -/
theorem test_wrStatus :
    nextIs (exec (.wrStatus 0xFF#8) State.reset) (fun t => t.status == 0x01#8) = true ∧
    nextIs (exec (.wrStatus 0x80#8) State.reset) (fun t => t.status == 0x00#8) = true ∧
    nextIs (exec (.wrStatus 0xFE#8) { armed with status := 0x81#8 }) (fun t => t.status == 0x80#8 && t.armed) = true := by
  decide
/-- V-S4. -/
theorem test_wrStatus_busy : faultIs (exec (.wrStatus 0x01#8) busy) (.configWhileBusy 0x3001#16) = true := by decide
/-- V-S5, V-S6, V-S7. -/
theorem test_rdStatus :
    nextIs (exec .rdStatus State.reset) (fun t => t.result == .byte 0x00#8 && !t.armed) = true ∧
    nextIs (exec .rdStatus { done with status := 0x81#8 }) (fun t => t.result == .byte 0x81#8 && t.armed) = true ∧
    nextIs (exec .rdStatus busy) (fun t => t.result == .byte 0x00#8 && t.busy) = true := by decide
/-- V-D5, V-D13, V-D14. -/
theorem test_wrData :
    nextIs (exec (.wrData 0x12#8) conf) (fun t => t.txs == 0x12#8 && t.busy && t.xcfg == busy.xcfg &&
      t.hist == [.op 0x5012#16 .none, .start 0x12#8 busy.xcfg conf.lines]) = true ∧
    nextIs (exec (.wrData 0x34#8) armed) (fun t => t.status == 0x00#8 && !t.armed && t.busy) = true ∧
    nextIs (exec (.wrData 0x34#8) done) (fun t => t.status == 0x80#8 && t.busy) = true := by decide
/-- V-D1, V-D2, V-D3, V-D4, V-D6. -/
theorem test_wrData_stops :
    faultIs (exec (.wrData 0x12#8) State.reset) (.unconfigured 0x5012#16) = true ∧
    faultIs (exec (.wrData 0x12#8) { State.reset with ctrl := 0x41#8 }) (.unconfigured 0x5012#16) = true ∧
    faultIs (exec (.wrData 0x12#8) { State.reset with ctrl := 0x51#8 }) (.engineLinesNotOutput 0x5012#16) = true ∧
    faultIs (exec (.wrData 0x12#8) { conf with lines := conf.lines.set 11 resetLine }) (.engineLinesNotOutput 0x5012#16)
      = true ∧
    faultIs (exec (.wrData 0x34#8) busy) (.writeCollision 0x5034#16) = true := by decide
/-- V-D8, V-D9, V-D10. -/
theorem test_rdData :
    nextIs (exec .rdData done) (fun t => t.result == .byte 0x13#8 && t.status == 0x80#8) = true ∧
    nextIs (exec .rdData armed) (fun t => t.result == .byte 0x13#8 && t.status == 0x00#8 && !t.armed) = true ∧
    nextIs (exec .rdData { done with status := 0x00#8 }) (fun t => t.result == .byte 0x13#8 && t.rxb == some 0x13#8) = true := by
  decide
/-- V-D11, V-D12. -/
theorem test_rdData_stops :
    faultIs (exec .rdData busy) (.readWhileBusy 0x6000#16) = true ∧
    faultIs (exec .rdData conf) (.rxEmpty 0x6000#16) = true := by decide
/-- V-D7, V-D17: the completion, the peripheral's answer as an input. -/
theorem test_complete :
    nextIs (step { busy with turns := [.engine], rxInputs := [0x13#8] }) (fun t =>
      t.rxb == some 0x13#8 && t.status == 0x80#8 && !t.busy && t.hist == [.done 0x12#8 0x13#8]) = true ∧
    nextIs (step { busy with turns := [.engine], rxInputs := [0x00#8], status := 0x01#8 }) (fun t =>
      t.rxb == some 0x00#8 && t.status == 0x81#8) = true := by decide
/-- V-L4, V-L14, V-L16. -/
theorem test_lineDir :
    nextIs (exec (.lineDir 9#8 .out) State.reset) (fun t => lineAt t 9#8 == outLow) = true ∧
    nextIs (exec (.lineDir 10#8 .inp) { conf with ctrl := 0x41#8 }) (fun t => lineAt t 10#8 == resetLine) = true ∧
    nextIs (exec (.lineDir 12#8 .out) conf) (fun t => lineAt t 12#8 == outLow) = true := by decide
/-- V-L1, V-L8, V-L9, V-L12, V-L13. -/
theorem test_lineDir_stops :
    faultIs (exec (.lineDir 20#8 .out) State.reset) (.lineOutOfRange 0x7141#16) = true ∧
    faultIs (exec (.lineDir 13#8 .inp) busy) (.lineConflictWhileBusy 0x70D0#16) = true ∧
    faultIs (exec (.lineDir 12#8 .out) busy) (.lineConflictWhileBusy 0x70C1#16) = true ∧
    faultIs (exec (.lineDir 10#8 .inp) busy) (.lineConflictWhileBusy 0x70A0#16) = true ∧
    faultIs (exec (.lineDir 10#8 .inp) conf) (.masterModeNotHeld 0x70A0#16) = true := by decide
/-- V-L5, V-L11, V-L15, V-L17. -/
theorem test_lineSet :
    nextIs (exec (.lineSet 9#8 .high) State.reset) (fun t => lineAt t 9#8 == { dir := .inp, latch := .high }) = true ∧
    nextIs (exec (.lineSet 10#8 .high) busy) (fun t => lineAt t 10#8 == outHigh) = true ∧
    nextIs (exec (.lineSet 9#8 .low) busy) (fun t => lineAt t 9#8 == outLow && t.busy) = true := by decide
/-- V-L2, V-L10. -/
theorem test_lineSet_stops :
    faultIs (exec (.lineSet 255#8 .high) State.reset) (.lineOutOfRange 0x8FF1#16) = true ∧
    faultIs (exec (.lineSet 11#8 .high) busy) (.lineConflictWhileBusy 0x80B1#16) = true := by decide
/-- V-L3 and V-L6 with the environment's answer as an input; V-L7; `get 9` of 41_line_control.md R143's example. -/
theorem test_lineGet :
    nextIs (exec (.lineGet 19#8) { State.reset with levelInputs := [.high] }) (fun t => t.result == .bit .high) = true ∧
    nextIs (exec (.lineGet 13#8) { conf with levelInputs := [.high] }) (fun t => t.result == .bit .high) = true ∧
    nextIs (exec (.lineGet 13#8) { conf with ctrl := 0x00#8 }) (fun t => t.result == .bit .low) = true ∧
    nextIs (exec (.lineGet 9#8) conf) (fun t => t.result == .bit .high) = true := by decide
theorem test_lineGet_stops : faultIs (exec (.lineGet 20#8) conf) (.lineOutOfRange 0x9140#16) = true := by decide

/-! ## Reset, the step, and the host's program -/

/-- 70_reset_and_hazards.md R231. -/
theorem test_reset :
    State.reset.ctrl = 0x00#8 ∧ State.reset.status = 0x00#8 ∧ State.reset.rxb = none ∧ State.reset.busy = false ∧
    lineAt State.reset 19#8 = { dir := .inp, latch := .low } ∧ lineCount State.reset = 20 := by decide
/-- The operation placed is the first to run; a word that spells none is refused. -/
theorem test_withFetchWord :
    nextIs (step (State.reset.withFetchWord 16 0x7091)) (fun t => lineAt t 9#8 == outLow && t.hpc == 1) = true ∧
    nextIs (step (busy.withFetchWord 16 0x4000)) (fun t => t.result == .byte 0x00#8 && t.hpc == 1) = true ∧
    refusedIs (step (State.reset.withFetchWord 16 0x0000)) (.illegalOperation 0x0000#16) = true := by decide
/-- R16: a host whose program has ended changes nothing; host arithmetic binds a variable. -/
theorem test_host_steps :
    nextIs (step conf) (fun t => t == conf) = true ∧
    nextIs (step (running conf [.compute 1 (.and (.shr (.lit 0x123456#32) 8) (.lit 0xFF#32))])) (fun t =>
      getVar 1 t == 0x34#32 && t.hpc == 1) = true ∧
    nextIs (step (running done [.op (some 4) 0x6000#16])) (fun t => getVar 4 t == 0x13#32 && t.hpc == 1) = true := by decide
/-- 20_memory.md R73, R74: accesses at the register addresses, and beside them. -/
theorem test_accesses :
    nextIs (step (running State.reset [.store 0x4C 1 (.lit 0x141#32)])) (fun t => t.ctrl == 0x41#8) = true ∧
    nextIs (step (running done [.load 2 0x4E 1])) (fun t => getVar 2 t == 0x13#32 && t.hist.length == 1) = true ∧
    refusedIs (step (running conf [.load 2 0x4B 2])) (.wideAccess (.read 0x4B 2)) = true ∧
    nextIs (step (running conf [.store 0x4F 4 (.lit 0#32)])) (fun t => viewOf t == viewOf conf && t.hist == []) = true := by
  decide
/-- 42_driver_operations.md R162 and R171, examples: the first steps' words, and the bytes of 0x123456. -/
theorem test_expansions :
    stepWords (expand Params.informative (.configure 9#8 7 13)) =
      [0x7091#16, 0x8091#16, 0x70D1#16, 0x70B1#16, 0x70A1#16, 0x105D#16, 0x4000#16] ∧
    stepWords (expand Params.informative (.tx24 0x123456#32)) =
      [0x5012#16, 0x4000#16, 0x6000#16, 0x5034#16, 0x4000#16, 0x6000#16, 0x5056#16, 0x4000#16, 0x6000#16] ∧
    expand Params.informative (.beginTx 9#8) = [.op none 0x8090#16] ∧
    expand Params.informative (Pseudo.configureDefault 9#8) = expand Params.informative (.configure 9#8 0 1) := by decide
/-- The configuration word of 95_test_vectors.md 2.5: modes and dividers at their ends, and R161's masking. -/
theorem test_ctrlWord :
    ctrlWord (maskMode 0) (maskDiv 0) = 0x50#8 ∧ ctrlWord (maskMode 3) (maskDiv 7) = 0x5F#8 ∧
    ctrlWord (maskMode 1) (maskDiv 4) = 0x54#8 ∧ ctrlWord (maskMode 7) (maskDiv 13) = 0x5D#8 := by decide
/-- 70_reset_and_hazards.md R245's table at `clockDivider` 1, and the shift clock of a 16 MHz system clock. -/
theorem test_clock :
    cyclesPerByte (liveCfg 0x51#8 0x00#8) = 128 ∧ cyclesPerByte (liveCfg 0x50#8 0x01#8) = 16 ∧
    shiftClock Params.informative (liveCfg 0x51#8 0x00#8) = 1000000 := by
  refine ⟨by decide, by decide, ?_⟩
  rw [shiftClock, show divisor (liveCfg 0x51#8 0x00#8) = 16 by decide]
  norm_num [Params.informative]

/-! ## Witnesses: for each statement with hypotheses, states and operands that meet them, clause by clause -/

theorem witness_DecodeOfEncodeIsIdentity : (Instr.lineDir 255#8 .out).wf = true := by decide
theorem witness_DecodedWordIsTheEncodersWord : decode 0x10FF#16 = .ok (.wrCtrl 0xFF#8) := by decide
/-- A word at the edge of each clause: the opcodes 0 and 10, `z4`, a read's `imm8`, `z3`, and `LINE_GET`'s `val`. -/
theorem witness_ReservedWordsAreIllegalAndRefused :
    isLive State.reset = true ∧
    [0x0FFF#16, 0xA000#16, 0x1100#16, 0x6800#16, 0x2001#16, 0x6080#16, 0x7002#16, 0x9008#16, 0x9001#16].all
      (fun w => decode w == .error .illegalOperation) = true := by decide
theorem witness_EachWordMatchesAtMostOneRow : ∀ r ∈ opcodeRows, rowMatches 0x9001#16 r = false := by decide
/-- The five clauses: `IE`, `ORD`, busy, `SS_LINE` an input, and the store, at a byte with every allowed bit 1. -/
theorem witness_WrCtrlStoresOrStopsInOrder :
    isLive State.reset = true ∧ isLive busy = true ∧ isLive conf = true ∧
    (0x80#8).getLsbD 7 = true ∧ (0x20#8).getLsbD 7 = false ∧ (0x20#8).getLsbD 5 = true ∧
    (0x5F#8).getLsbD 7 = false ∧ (0x5F#8).getLsbD 5 = false ∧ busy.busy = true ∧
    State.reset.busy = false ∧ (0x5F#8).getLsbD 6 = true ∧ (0x5F#8).getLsbD 4 = true ∧
    lineDirAt State.reset State.reset.params.ss = .inp ∧
    conf.busy = false ∧ lineDirAt conf conf.params.ss = .out := by decide
theorem witness_RdCtrlReturnsTheLastByteWritten :
    isLive busy = true ∧
    (∃ t, exec (.wrCtrl 0x5E#8) conf = .next t ∧ t.ctrl = 0x5E#8) ∧
    (∃ t, exec .rdCtrl conf = .next t ∧ t.result = .byte 0x51#8) :=
  ⟨by decide, ⟨_, rfl, rfl⟩, ⟨_, rfl, rfl⟩⟩
theorem witness_WrStatusWritesDblOnlyOrFaults :
    isLive busy = true ∧ busy.busy = true ∧ isLive armed = true ∧ armed.busy = false := by decide
theorem witness_RdStatusReturnsFlagsAndArms : isLive done = true ∧ done.status.getLsbD 7 = true := by decide
theorem witness_WrDataStartsAnExchangeOrStopsInOrder :
    isLive busy = true ∧ busy.busy = true ∧
    isLive State.reset = true ∧ State.reset.busy = false ∧ State.reset.ctrl.getLsbD 6 = false ∧
    ({ State.reset with ctrl := 0x51#8 } : State).ctrl.getLsbD 4 = true ∧
    lineDirAt State.reset State.reset.params.sck = .inp ∧
    isLive conf = true ∧ conf.busy = false ∧ conf.ctrl.getLsbD 6 = true ∧ conf.ctrl.getLsbD 4 = true ∧
    lineDirAt conf conf.params.sck = .out ∧ lineDirAt conf conf.params.mosi = .out := by decide
theorem witness_RdDataReturnsTheReceivedByteOrStops :
    isLive busy = true ∧ busy.busy = true ∧ isLive conf = true ∧ conf.busy = false ∧ conf.rxb = none ∧
    isLive done = true ∧ done.busy = false ∧ done.rxb = some 0x13#8 := by decide
/-- The engine moves: with an answer given, and with none. -/
def engineNext (rx : List Byte) : State := { busy with turns := [.engine], rxInputs := rx }
theorem witness_CompletionEndsTheExchange :
    isLive (engineNext [0xFF#8]) = true ∧ (engineNext [0xFF#8]).busy = true ∧
    (∃ ts, (engineNext [0xFF#8]).turns = .engine :: ts ∧
      { busy with rxInputs := [0xFF#8] } = { engineNext [0xFF#8] with turns := ts }) ∧
    (engineNext [0xFF#8]).rxInputs = [0xFF#8] ∧ (engineNext []).rxInputs = [] :=
  ⟨by decide, by decide, ⟨[], by decide, by decide⟩, by decide, by decide⟩
/-- With no input of the schedule left, the free value makes the engine or the host move, so a clause for an empty
schedule, of CompletionEndsTheExchange or of StepRunsTheDecodedOperation, applies to this state whatever it is. -/
theorem witness_free_turn :
    isLive busy = true ∧ busy.busy = true ∧ busy.turns = [] ∧
    (Config.turn busy.draws = .engine ∨ Config.turn busy.draws = .host) := by
  refine ⟨by decide, by decide, by decide, ?_⟩
  cases Config.turn busy.draws
  · exact .inr rfl
  · exact .inl rfl
theorem witness_BusyChangesOnlyByStartAndCompletion :
    (∃ t, step (engineNext [0xFF#8]) = .next t ∧ (engineNext [0xFF#8]).busy = true ∧ t.busy = false) ∧
    (∃ t, step (running conf [.op none 0x50FF#16]) = .next t ∧ conf.busy = false ∧ t.busy = true) :=
  ⟨⟨_, rfl, by decide, rfl⟩, ⟨_, rfl, by decide, rfl⟩⟩
theorem witness_FlagClearsOnlyByArmedDataAccess :
    (∃ t, exec .rdData armed = .next t ∧ armed.armed = true) ∧
    (∃ t, exec (.wrData 0x34#8) armed = .next t ∧ armed.armed = true) ∧
    (∃ t, exec .rdStatus done = .next t ∧ done.status.getLsbD 7 = true) ∧
    (∃ t, step (running armed [.op none 0x6000#16]) = .next t ∧ armed.status.getLsbD 7 = true ∧
      t.status.getLsbD 7 = false) :=
  ⟨⟨_, rfl, by decide⟩, ⟨_, rfl, by decide⟩, ⟨_, rfl, by decide⟩, ⟨_, rfl, by decide, by decide⟩⟩
theorem witness_FlagStaysClearUntilCompletion :
    busy.busy = true ∧ busy.status.getLsbD 7 = false ∧
    (∃ t, step (engineNext [0x00#8]) = .next t ∧ t.busy = false) ∧
    (∃ t, step { running busy [.poll] with turns := [.host] } = .next t ∧ t.busy = true) :=
  ⟨by decide, by decide, ⟨_, rfl, rfl⟩, ⟨_, rfl, rfl⟩⟩
theorem witness_StaleFlagSurvivesWrData :
    done.status.getLsbD 7 = true ∧ done.armed = false ∧ ∃ t, exec (.wrData 0x34#8) done = .next t ∧ t.busy = true :=
  ⟨by decide, by decide, ⟨_, rfl, rfl⟩⟩
/-- The clauses at the last line the platform has (19) and the first it does not have (20), and at each engine line. -/
theorem witness_LineDirSetsTheDirectionOrStopsInOrder :
    isLive conf = true ∧ conf.lines.length ≤ (20#8 : LineId).toNat ∧ (19#8 : LineId).toNat < conf.lines.length ∧
    busy.busy = true ∧ [13#8, 11#8, 12#8, 10#8].all (fun l => isEngineLine busy l) = true ∧ isEngineLine busy 19#8 = false ∧
    conf.params.ss = 10#8 ∧ conf.ctrl.getLsbD 6 = true ∧ conf.ctrl.getLsbD 4 = true ∧
    0x7131#16 = 0x7000#16 + ((19#8 : LineId).setWidth 16 <<< 4) + (if Dir.out = .out then 1#16 else 0#16) := by decide
theorem witness_LineSetSetsTheLatchOrStopsInOrder :
    isLive conf = true ∧ conf.lines.length ≤ (20#8 : LineId).toNat ∧ (19#8 : LineId).toNat < conf.lines.length ∧
    busy.busy = true ∧ [13#8, 11#8, 12#8].all (fun l => isWireLine busy l) = true ∧ isWireLine busy 10#8 = false ∧
    0x8130#16 = 0x8000#16 + ((19#8 : LineId).setWidth 16 <<< 4) + (if Level.low = .high then 1#16 else 0#16) := by decide
theorem witness_LineGetReturnsTheLevelOrFaults :
    isLive conf = true ∧ 0x9130#16 = 0x9000#16 + ((19#8 : LineId).setWidth 16 <<< 4) ∧
    conf.lines.length ≤ (20#8 : LineId).toNat ∧ (19#8 : LineId).toNat < conf.lines.length ∧
    drivesLatch conf 9#8 = true ∧ drivesLatch conf 19#8 = false ∧ drivesLatch conf 13#8 = false ∧
    conf.levelInputs = [] ∧ ({ conf with levelInputs := [.low] } : State).levelInputs = [.low] := by decide
theorem witness_LevelFollowsTheLineAtOnce :
    ¬ (((9#8 : LineId) = conf.params.sck ∨ (9#8 : LineId) = conf.params.mosi) ∧ isMaster conf = true) ∧
    (∃ t, exec (.lineDir 9#8 .out) conf = .next t ∧ (lineAt t 9#8).latch = .high) ∧
    (lineAt conf 9#8).dir = .out ∧ (∃ t, exec (.lineSet 9#8 .low) conf = .next t ∧ (lineAt t 9#8).latch = .low) :=
  ⟨by decide, ⟨_, rfl, by decide⟩, by decide, ⟨_, rfl, by decide⟩⟩
theorem witness_RepeatedLineSetChangesNoLine :
    (lineAt conf 9#8).latch = .high ∧ ∃ t, exec (.lineSet 9#8 .high) conf = .next t ∧ viewOf t = viewOf conf :=
  ⟨by decide, ⟨_, rfl, by decide⟩⟩
theorem witness_ExchangeIgnoresEveryLatch :
    (∃ t, exec (.wrData 0x12#8) conf = .next t ∧ t.busy = true) ∧
    exec (.wrData 0x12#8) busy = .fault (.writeCollision 0x5012#16) := ⟨⟨_, rfl, rfl⟩, rfl⟩
/-- For the frames: an operation of each kind that ends normally. -/
theorem witness_RegistersAreWrittenOnlyByTheirOperations :
    (∃ t, exec (.wrCtrl 0x5E#8) conf = .next t) ∧ (∃ t, exec (.wrStatus 0x01#8) conf = .next t) ∧
    (∃ t, exec (.wrData 0x12#8) conf = .next t) ∧ (∃ t, exec .rdStatus done = .next t) := ⟨⟨_, rfl⟩, ⟨_, rfl⟩, ⟨_, rfl⟩, ⟨_, rfl⟩⟩
theorem witness_LinesAreWrittenOnlyByTheirOperations :
    (∃ t, exec (.lineDir 19#8 .out) conf = .next t) ∧ (∃ t, exec (.lineSet 19#8 .high) conf = .next t) ∧
    (∃ t, exec .rdData done = .next t) := ⟨⟨_, rfl⟩, ⟨_, rfl⟩, ⟨_, rfl⟩⟩
theorem witness_OperationAppendsItsOpEventFirst :
    (∃ t, exec (.lineSet 19#8 .high) conf = .next t ∧ t.hist.length = 2) ∧
    (∃ t, exec .rdCtrl conf = .next t ∧ t.hist.length = 1) := ⟨⟨_, rfl, rfl⟩, ⟨_, rfl, rfl⟩⟩
theorem witness_OperationLeavesTheHostAndTheInputs :
    (∃ t, exec .rdCtrl { engineNext [0x01#8] with levelInputs := [.high] } = .next t ∧ t.levelInputs = [.high]) ∧
    (∃ t, exec (.lineGet 19#8) { conf with levelInputs := [.high] } = .next t ∧ t.levelInputs = []) :=
  ⟨⟨_, rfl, rfl⟩, ⟨_, rfl, rfl⟩⟩
theorem witness_OperationsDoNotReadTheHiddenRegisters :
    (∃ t, exec (.wrData 0x12#8) conf = .next t ∧ t.txs = 0x12#8) ∧ (∃ t, exec .rdCtrl conf = .next t) ∧
    exec .rdData busy = .fault (.readWhileBusy 0x6000#16) ∧
    exec (.wrCtrl 0x80#8) conf = .refused (.interruptEnable 0x1080#16) := ⟨⟨_, rfl, rfl⟩, ⟨_, rfl⟩, rfl, rfl⟩
theorem witness_StepKeepsPlatformAndProgram :
    (∃ t, step (engineNext [0x01#8]) = .next t ∧ t.hist.length = 1) ∧
    (∃ t, step (running conf [.poll]) = .next t ∧ t.hist.length = 1) := ⟨⟨_, rfl, rfl⟩, ⟨_, rfl, rfl⟩⟩
/-- One fault for each reason. -/
theorem witness_FaultsFollowTheTable :
    faultIs (exec (.wrData 0#8) State.reset) (.unconfigured 0x5000#16) = true ∧
    faultIs (exec (.wrData 0#8) busy) (.writeCollision 0x5000#16) = true ∧
    faultIs (exec (.wrData 0#8) { State.reset with ctrl := 0x50#8 }) (.engineLinesNotOutput 0x5000#16) = true ∧
    faultIs (exec .rdData busy) (.readWhileBusy 0x6000#16) = true ∧
    faultIs (exec .rdData State.reset) (.rxEmpty 0x6000#16) = true ∧
    faultIs (exec (.wrStatus 0#8) busy) (.configWhileBusy 0x3000#16) = true ∧
    faultIs (exec (.lineDir 10#8 .inp) conf) (.masterModeNotHeld 0x70A0#16) = true ∧
    faultIs (exec (.lineSet 12#8 .low) busy) (.lineConflictWhileBusy 0x80C0#16) = true ∧
    faultIs (exec (.lineGet 20#8) conf) (.lineOutOfRange 0x9140#16) = true ∧
    faultIs (exec .rdCtrl { conf with fault := some (.rxEmpty 0x6000#16) }) .stopped = true := by decide
theorem witness_RefusalsFollowTheTable :
    refusedIs (exec (.wrCtrl 0xFF#8) busy) (.interruptEnable 0x10FF#16) = true ∧
    refusedIs (exec (.wrCtrl 0x7F#8) busy) (.lsbFirst 0x107F#16) = true := by decide
theorem witness_FaultSetsOnlyItsMarkForGood :
    isLive (running conf [.op none 0x6000#16]) = true ∧
    step (running conf [.op none 0x6000#16]) = .fault (.rxEmpty 0x6000#16) ∧
    step (running conf [.op none 0x1080#16]) = .refused (.interruptEnable 0x1080#16) ∧
    ({ conf with refused := some (.lsbFirst 0x1020#16) } : State).refused ≠ none := ⟨by decide, rfl, rfl, by decide⟩
theorem witness_ResetLeavesTheStatedValues :
    State.reset = State.resetFor Params.informative 20 ∧ (19#8 : LineId).toNat < 20 := by decide
theorem busy_inv : Inv busy :=
  ⟨by decide, by decide, by decide, by decide, by decide, by decide, by decide, by decide, by decide⟩
theorem witness_StepKeepsTheInvariant :
    Inv { busy with turns := [.engine], rxInputs := [0x13#8] } ∧
    ∃ t, step { busy with turns := [.engine], rxInputs := [0x13#8] } = .next t :=
  ⟨⟨by decide, by decide, by decide, by decide, by decide, by decide, by decide, by decide, by decide⟩, ⟨_, rfl⟩⟩
theorem witness_HistoryTellsEveryChange :
    (∃ t, step (engineNext [0x13#8]) = .next t ∧ viewOf t ≠ viewOf busy) ∧
    (∃ t, step (running armed [.op none 0x5034#16]) = .next t ∧ t.hist.length = 2) :=
  ⟨⟨_, rfl, by decide⟩, ⟨_, rfl, rfl⟩⟩
/-- Configured(0, 1) with line 9 asserted, about to start an exchange. -/
def asserted : State := running { conf with lines := conf.lines.set 9 outLow } [.op none 0x5012#16]
theorem witness_ExchangesBeganWhileAssertedAreBracketed :
    lineAt asserted 9#8 = outLow ∧ bracketed 9#8 asserted.hist = true ∧
    (∃ t, step asserted = .next t ∧ t.hist.length = 2) ∧ bracketed 9#8 [.start 0x12#8 busy.xcfg conf.lines] = false :=
  ⟨by decide, by decide, ⟨_, rfl, rfl⟩, by decide⟩
theorem witness_StepKeepsVariablesCanonical :
    varsWf [(0, 1#32), (3, 2#32)] = true ∧ varsWf [(3, 1#32), (0, 2#32)] = false ∧
    ∃ t, step { running conf [.compute 2 (.lit 7#32)] with vars := [(0, 1#32), (3, 2#32)] } = .next t ∧
      t.vars = [(0, 1#32), (2, 7#32), (3, 2#32)] := ⟨by decide, by decide, ⟨_, rfl, by decide⟩⟩
theorem witness_StepRunsTheDecodedOperation :
    isLive (running busy [.op (some 0) 0x4000#16]) = true ∧
    fetch (running busy [.op (some 0) 0x4000#16]) = some (.op (some 0) 0x4000#16) ∧
    decode 0x4000#16 = .ok .rdStatus ∧ Instr.rdStatus.wf = true ∧
    conf.busy = false ∧ busy.busy = true ∧ ({ busy with turns := [.host] } : State).turns = [.host] := by decide
/-- An access just below the registers, one just above, and one of no bytes. -/
theorem witness_HostAccessesAreTheRegisterOperations :
    isLive conf = true ∧ conf.params.addrsDistinct = true ∧
    [(0x4B, 1), (0x4F, 4), (0x4C, 0)].all (fun a => [0x4C, 0x4D, 0x4E].all fun r =>
      decide (r < a.1) || decide (a.1 + a.2 ≤ r)) = true ∧
    conf.params.addrCtrl = 0x4C ∧ conf.params.addrStatus = 0x4D ∧ conf.params.addrData = 0x4E := by decide
theorem witness_WideAccessIsRefused :
    isLive conf = true ∧ 1 < 2 ∧ 0x4B ≤ conf.params.addrCtrl ∧ conf.params.addrCtrl < 0x4B + 2 ∧
    0x4E ≤ conf.params.addrData ∧ conf.params.addrData < 0x4E + 2 := by decide
theorem witness_ControlWordPacksModeAndDivider : 0x5D#8 = ctrlWord (maskMode 7) (maskDiv 13) := by decide
theorem witness_ConfigureLeavesItsConfiguration :
    isLive State.reset = true ∧ State.reset.busy = false ∧ State.reset.params.wf (lineCount State.reset) = true ∧
    (19#8 : LineId).toNat < lineCount State.reset ∧
    (running State.reset (expand Params.informative (.configure 19#8 7 13))).prog.drop 0 =
      expand State.reset.params (.configure 19#8 7 13) ++ [] := by decide
/-- Both clauses: a line the platform does not have, and an exchange in progress with three host turns to come. -/
theorem witness_ConfigureFaultsWhereItsStepsDo :
    lineCount State.reset ≤ (20#8 : LineId).toNat ∧
    faultIs (step (running State.reset (expand Params.informative (.configure 20#8 0 1)))) (.lineOutOfRange 0x7141#16) = true ∧
    isEngineLine busy 9#8 = false ∧ (9#8 : LineId).toNat < lineCount busy ∧ busy.params.wf (lineCount busy) = true ∧
    comingTurns 3 { busy with turns := [.host, .host, .host] } = [.host, .host, .host] ∧
    faultIs (Host.Core.run core 3 { running busy (expand Params.informative (.configure 9#8 0 1)) with
      turns := [.host, .host, .host] }) (.lineConflictWhileBusy 0x70D1#16) = true := by decide
theorem witness_ConfigureRepeatedLeavesTheSameBlock :
    isLive done = true ∧ done.busy = false ∧ done.params.wf (lineCount done) = true ∧ (9#8 : LineId).toNat < lineCount done ∧
    (running done (expandAll done.params [.configure 9#8 0 1, .configure 9#8 0 1])).prog.drop 0 =
      expandAll done.params [.configure 9#8 0 1, .configure 9#8 0 1] ++ [] := by decide
theorem witness_BeginAndEndDriveTheChipSelect :
    isLive conf = true ∧ conf.busy = false ∧ (9#8 : LineId).toNat < lineCount conf ∧
    ¬ (((9#8 : LineId) = conf.params.sck ∨ (9#8 : LineId) = conf.params.mosi) ∧ isMaster conf = true) ∧
    (lineAt conf 9#8).dir = .out ∧
    (running conf (expand conf.params (.beginTx 9#8))).prog.drop 0 = expand conf.params (.beginTx 9#8) ++ [] ∧
    (running conf (expand conf.params (.endTx 9#8))).prog.drop 0 = expand conf.params (.endTx 9#8) ++ [] := by decide
theorem witness_PollEndsExactlyOnTheFlag :
    isLive busy = true ∧ busy.status.getLsbD 7 = false ∧ isLive done = true ∧ done.status.getLsbD 7 = true := by decide
/-- The byte exchange of 42_driver_operations.md R169's example, two status reads finding it unfinished. -/
theorem witness_ByteExchangeReturnsThePeripheralsByte :
    isLive conf = true ∧ conf.busy = false ∧ isMaster conf = true ∧ lineDirAt conf conf.params.sck = .out ∧
    lineDirAt conf conf.params.mosi = .out ∧ conf.status.getLsbD 7 = false ∧ armed.armed = true ∧
    comingTurns 3 { conf with turns := List.replicate 2 .host ++ [.engine] } = List.replicate 2 .host ++ [.engine] ∧
    comingTurns 1 { conf with turns := [.engine] } = List.replicate 0 .host ++ [.engine] ∧ conf.rxInputs = [] ∧
    nextIs (Host.Core.run core 6 { running conf (expand conf.params (.xchg (some 4) 0x34#32)) with
      turns := List.replicate 2 .host ++ [.engine], rxInputs := [0x35#8] }) (fun t => getVar 4 t == 0x35#32 && t.hpc == 3)
      = true := by decide
/-- Where the 24-bit transfer of 95_test_vectors.md W1 starts, with the echo-plus-one answers as inputs. -/
def transfer : State :=
  { running conf (expand conf.params (.xfer24 4 0x123456#32)) with
    turns := [.engine, .engine, .engine], rxInputs := [0x13#8, 0x35#8, 0x57#8] }
theorem witness_Transfer24SendsAndReturnsThreeBytes :
    isLive transfer = true ∧ transfer.busy = false ∧ isMaster transfer = true ∧
    lineDirAt transfer transfer.params.sck = .out ∧ lineDirAt transfer transfer.params.mosi = .out ∧
    transfer.status.getLsbD 7 = false ∧
    transfer.prog.drop transfer.hpc = expand transfer.params (.xfer24 4 0x123456#32) ++ [] ∧
    comingTurns ((0 + 1) + (0 + 1) + (0 + 1)) transfer =
      (List.replicate 0 .host ++ [.engine]) ++ (List.replicate 0 .host ++ [.engine]) ++
        (List.replicate 0 .host ++ [.engine]) ∧
    transfer.rxInputs = [0x13#8, 0x35#8, 0x57#8] := by decide
theorem witness_ReassemblyJoinsTheThreeBytes :
    getVar varR2 { conf with vars := [(1, 0x12#32), (2, 0x34#32), (3, 0x56#32)] } = (0x12#8).setWidth 32 ∧
    getVar varR1 { conf with vars := [(1, 0x12#32), (2, 0x34#32), (3, 0x56#32)] } = (0x34#8).setWidth 32 ∧
    getVar varR0 { conf with vars := [(1, 0x12#32), (2, 0x34#32), (3, 0x56#32)] } = (0x56#8).setWidth 32 ∧
    0x12#8 = wordByte 0xFF123456#32 2 ∧ 0x34#8 = wordByte 0xFF123456#32 1 ∧ 0x56#8 = wordByte 0xFF123456#32 0 := by decide
theorem witness_UnfinishedExchangePollsOn :
    isLive busy = true ∧ busy.busy = true ∧ busy.status.getLsbD 7 = false ∧
    (running busy [.poll]).prog.drop 0 = [.poll] ∧
    comingTurns 2 { busy with turns := [.host, .host] } = List.replicate 2 .host := by decide
/-- A poll of an exchange that the engine ends at its next turn. -/
def polling : State := { running busy [.poll] with turns := [.engine], rxInputs := [0x13#8] }
def polled : State := { polling with rxb := some 0x13#8, status := 0x80#8, busy := false, hist := [.done 0x12#8 0x13#8],
                                     turns := [], rxInputs := [] }
def ended : State := { polled with armed := true, hist := polled.hist ++ [.op 0x4000#16 (.byte 0x80#8)],
                                   result := .byte 0x80#8, hpc := 1 }
theorem ended_stays (k : Nat) : Host.Core.run core k ended = .next ended := by
  induction k with
  | zero => rfl
  | succ k ih => rw [run_succ_of_next (t := ended) rfl, ih]
theorem polling_engineLive : EngineLive polling := by
  intro k t h hb
  match k, h with
  | 0, h => cases h; exact ⟨1, polled, rfl, rfl⟩
  | 1, h => cases h; cases hb
  | k + 2, h =>
    rw [run_succ_of_next (t := polled) rfl, run_succ_of_next (t := ended) rfl, ended_stays] at h
    cases h; cases hb
theorem witness_PollEndsUnderEngineLive :
    isLive polling = true ∧ polling.busy = true ∧ polling.status.getLsbD 7 = false ∧
    polling.prog.drop polling.hpc = [.poll] ∧ EngineLive polling :=
  ⟨by decide, by decide, by decide, by decide, polling_engineLive⟩
theorem witness_DivisorsAreTheTable : (XCfg.mk false false 1#2 true).dbl = true := by decide

end Sys2Proof.Tests
end

section
/-!
SUPPORT. What no operation and no step changes: the host's side, the marks and the platform (00_scope.md R8, R11, R16,
10_state.md R62, R66); when a step stops for good (R11); which operation a step runs (R10, R16); and how a poll runs
(42_driver_operations.md R170).
-/

namespace Sys2Proof.Machine

/-! ## Frames -/

/-- What no operation writes: the marks, the parameters, the host program with its index and variables, and the inputs
of the schedule and of the peripheral. -/
structure HostKept (s t : State) : Prop where
  fault : t.fault = s.fault
  refused : t.refused = s.refused
  params : t.params = s.params
  prog : t.prog = s.prog
  hpc : t.hpc = s.hpc
  vars : t.vars = s.vars
  turns : t.turns = s.turns
  rxInputs : t.rxInputs = s.rxInputs
  draws : t.draws = s.draws

theorem exec_keeps_host {i : Instr} {s t : State} (h : exec i s = .next t) : HostKept s t := by
  cases i <;> obtain ⟨-, -, rfl⟩ := (perform_eq_next _ _ _ _).1 h <;> constructor <;> simp

/-- Only `LINE_GET` takes an input level. -/
theorem exec_keeps_levelInputs {i : Instr} {s t : State} (h : exec i s = .next t) (hi : ∀ l, i ≠ .lineGet l) :
    t.levelInputs = s.levelInputs := by
  cases i
  case lineGet l => exact absurd rfl (hi l)
  all_goals
    obtain ⟨-, -, rfl⟩ := (perform_eq_next _ _ _ _).1 h
    simp

/-- What no step of any agent changes, and the history that only grows. -/
structure PlatformKept (s t : State) : Prop where
  params : t.params = s.params
  lineCount : t.lines.length = s.lines.length
  prog : t.prog = s.prog
  hist : s.hist <+: t.hist

theorem PlatformKept.trans {s t u : State} (h : PlatformKept s t) (k : PlatformKept t u) : PlatformKept s u :=
  ⟨k.params.trans h.params, k.lineCount.trans h.lineCount, k.prog.trans h.prog, h.hist.trans k.hist⟩

theorem exec_keeps_platform {i : Instr} {s t : State} (h : exec i s = .next t) : PlatformKept s t := by
  cases i <;> obtain ⟨-, -, rfl⟩ := (perform_eq_next _ _ _ _).1 h <;> constructor <;> simp

theorem HostOnly.keeps_platform {s t : State} (h : HostOnly s t) : PlatformKept s t := by
  rw [h]
  constructor <;> simp

theorem drawTurn_keeps_platform (s : State) : PlatformKept s (drawTurn s).2 := by
  constructor <;> simp

theorem complete_keeps_platform (s : State) : PlatformKept s (complete s) := by
  constructor <;> simp [complete]

theorem step_keeps_platform {s t : State} (h : step s = .next t) : PlatformKept s t := by
  obtain ⟨-, ⟨-, rfl⟩ | ⟨s0, hs0, ht⟩⟩ := step_next h
  · exact (drawTurn_keeps_platform s).trans (complete_keeps_platform _)
  · have before : PlatformKept s s0 := by
      obtain ⟨rfl, -⟩ | ⟨rfl, -⟩ := hs0
      · exact (HostOnly.refl _).keeps_platform
      · exact drawTurn_keeps_platform s
    obtain ⟨i, u, hu, hut⟩ | hut := ht
    · exact before.trans ((exec_keeps_platform hu).trans hut.keeps_platform)
    · exact before.trans hut.keeps_platform

/-! ## Host variables -/

theorem varsWf_setVar (x : Var) (v : HostInt) {s : State} (h : varsWf s.vars = true) :
    varsWf (setVar x v s).vars = true :=
  varsWf_insertVar x v s.vars h

theorem varsWf_bindResult (dst : Option Var) {s : State} (h : varsWf s.vars = true) :
    varsWf (bindResult dst s).vars = true := by
  unfold bindResult
  split
  · exact varsWf_setVar _ _ h
  · exact h
  · exact h

/-- `poll` binds no variable. -/
@[simp] theorem pollNext_vars (s : State) : (pollNext s).vars = s.vars := by
  unfold pollNext
  split
  · split <;> rfl
  · rfl
  · rfl

theorem exec_keeps_varsWf {i : Instr} {s t : State} (h : varsWf s.vars = true) (hx : exec i s = .next t) :
    varsWf t.vars = true := by
  rwa [(exec_keeps_host hx).vars]

theorem loadAccess_keeps_varsWf {x : Var} {addr n : Nat} {s t : State} (h : varsWf s.vars = true)
    (hx : loadAccess x addr n s = .next t) : varsWf t.vars = true := by
  unfold loadAccess at hx
  split at hx
  · split at hx
    · split at hx
      · obtain ⟨u, hu, rfl⟩ := (andThen_eq_next _ _ _).1 hx
        exact varsWf_bindResult _ (exec_keeps_varsWf h hu)
      · obtain ⟨-, -, rfl⟩ := (perform_eq_next _ _ _ _).1 hx
        exact h
    · obtain ⟨-, -, rfl⟩ := (perform_eq_next _ _ _ _).1 hx
      exact h
  · obtain ⟨-, -, rfl⟩ := (perform_eq_next _ _ _ _).1 hx
    exact varsWf_setVar _ _ h

theorem storeAccess_keeps_varsWf {addr n : Nat} {v : HostInt} {s t : State} (h : varsWf s.vars = true)
    (hx : storeAccess addr n v s = .next t) : varsWf t.vars = true := by
  obtain ⟨i, hi⟩ | rfl := storeAccess_next hx
  · exact exec_keeps_varsWf h hi
  · exact h

theorem runHostStep_keeps_varsWf {g : HostStep} {s t : State} (h : varsWf s.vars = true)
    (hx : runHostStep g s = .next t) : varsWf t.vars = true := by
  cases g with
  | op dst w =>
    obtain ⟨u, hu, rfl⟩ := (andThen_eq_next _ _ _).1 hx
    obtain ⟨i, -, hi⟩ := performWord_next hu
    exact varsWf_bindResult dst (exec_keeps_varsWf h hi)
  | wr r e =>
    obtain ⟨u, hu, rfl⟩ := (andThen_eq_next _ _ _).1 hx
    exact exec_keeps_varsWf (t := u) h hu
  | poll =>
    obtain ⟨u, hu, rfl⟩ := (andThen_eq_next _ _ _).1 hx
    rw [pollNext_vars]
    exact exec_keeps_varsWf h hu
  | compute x e =>
    obtain ⟨-, -, rfl⟩ := (perform_eq_next _ _ _ _).1 hx
    exact varsWf_setVar _ _ h
  | load x addr n =>
    obtain ⟨u, hu, rfl⟩ := (andThen_eq_next _ _ _).1 hx
    exact loadAccess_keeps_varsWf (t := u) h hu
  | store addr n e =>
    obtain ⟨u, hu, rfl⟩ := (andThen_eq_next _ _ _).1 hx
    exact storeAccess_keeps_varsWf (t := u) h hu

theorem hostTurn_keeps_varsWf {s t : State} (h : varsWf s.vars = true) (hx : hostTurn s = .next t) :
    varsWf t.vars = true := by
  unfold hostTurn at hx
  split at hx
  · exact runHostStep_keeps_varsWf h hx
  · obtain ⟨-, -, rfl⟩ := (perform_eq_next _ _ _ _).1 hx
    exact h

theorem step_keeps_varsWf {s t : State} (h : varsWf s.vars = true) (hx : step s = .next t) :
    varsWf t.vars = true := by
  obtain ⟨-, ⟨-, rfl⟩ | ⟨s0, hs0, ht⟩⟩ := step_next_turn hx
  · simpa [complete] using h
  · refine hostTurn_keeps_varsWf ?_ ht
    obtain ⟨rfl, -⟩ | ⟨rfl, -⟩ := hs0
    · exact h
    · rwa [drawTurn_vars]

/-! ## Stops -/

theorem isLive_eq_false_iff (s : State) : isLive s = false ↔ s.fault ≠ none ∨ s.refused ≠ none := by
  cases hf : s.fault <;> cases hr : s.refused <;> simp [isLive, hf, hr]

/-- Two states with the same marks are live together. -/
theorem isLive_congr {s t : State} (hf : t.fault = s.fault) (hr : t.refused = s.refused) : isLive t = isLive s := by
  simp only [isLive, hf, hr]

@[simp] theorem isLive_drawTurn (s : State) : isLive (drawTurn s).2 = isLive s :=
  isLive_congr (drawTurn_fault s) (drawTurn_refused s)

/-- A list of conditions faults only with a condition that holds. -/
theorem firstStop_fault {t : State} {cs : List (Bool × Stop)} {f : Fault} (h : firstStop t cs = .fault f) :
    (true, .raise f) ∈ cs := by
  induction cs with
  | nil => cases h
  | cons c rest ih =>
    obtain ⟨_ | _, e⟩ := c
    · exact List.mem_cons_of_mem _ (ih h)
    · cases e with
      | raise g => cases h; exact List.mem_cons_self
      | refuse r => cases h

/-- An operation of a live machine faults only with a condition that holds. -/
theorem perform_fault {s t : State} {cs : List (Bool × Stop)} {f : Fault} (hl : isLive s = true)
    (h : perform s cs t = .fault f) : (true, .raise f) ∈ cs :=
  firstStop_fault (t := t) (by simpa [perform, hl] using h)

@[simp] theorem andThen_eq_fault (o : Out) (f : State → State) (r : Fault) :
    andThen o f = .fault r ↔ o = .fault r := by
  cases o <;> simp [andThen]

/-- No operation of a live machine raises the stuck fault. -/
theorem exec_ne_stopped (i : Instr) {s : State} (hl : isLive s = true) : exec i s ≠ .fault .stopped := by
  intro h
  cases i <;> simpa using perform_fault hl h

theorem performWord_ne_stopped (w : OpWord) {s : State} (hl : isLive s = true) :
    performWord w s ≠ .fault .stopped := by
  unfold performWord
  split
  · exact exec_ne_stopped _ hl
  · intro h
    simpa using perform_fault hl h

/-- A step of the host without conditions never stops a live machine. -/
theorem perform_nil_ne_fault (t : State) {s : State} (hl : isLive s = true) (f : Fault) :
    perform s [] t ≠ .fault f :=
  fun h => List.not_mem_nil (perform_fault hl h)

theorem loadAccess_ne_stopped (x : Var) (addr n : Nat) {s : State} (hl : isLive s = true) :
    loadAccess x addr n s ≠ .fault .stopped := by
  unfold loadAccess
  split
  · split
    · split
      · simpa using exec_ne_stopped _ hl
      · exact perform_nil_ne_fault _ hl _
    · intro h
      simpa using perform_fault hl h
  · exact perform_nil_ne_fault _ hl _

theorem storeAccess_ne_stopped (addr n : Nat) (v : HostInt) {s : State} (hl : isLive s = true) :
    storeAccess addr n v s ≠ .fault .stopped := by
  unfold storeAccess
  split
  · split
    · split
      · exact exec_ne_stopped _ hl
      · exact perform_nil_ne_fault _ hl _
    · intro h
      simpa using perform_fault hl h
  · exact perform_nil_ne_fault _ hl _

theorem runHostStep_ne_stopped (g : HostStep) {s : State} (hl : isLive s = true) :
    runHostStep g s ≠ .fault .stopped := by
  cases g with
  | op dst w => simpa [runHostStep] using performWord_ne_stopped w hl
  | wr r e => simpa [runHostStep] using exec_ne_stopped _ hl
  | poll => simpa [runHostStep] using exec_ne_stopped _ hl
  | compute x e => exact perform_nil_ne_fault _ hl _
  | load x addr n => simpa [runHostStep] using loadAccess_ne_stopped x addr n hl
  | store addr n e => simpa [runHostStep] using storeAccess_ne_stopped addr n _ hl

theorem hostTurn_ne_stopped {s : State} (hl : isLive s = true) : hostTurn s ≠ .fault .stopped := by
  unfold hostTurn
  split
  · exact runHostStep_ne_stopped _ hl
  · exact perform_nil_ne_fault _ hl _

/-- Only a machine with a mark set is stuck. -/
theorem step_ne_stopped {s : State} (hl : isLive s = true) : step s ≠ .fault .stopped := by
  cases hb : s.busy with
  | false =>
    rw [step_of_idle hl hb]
    exact hostTurn_ne_stopped hl
  | true =>
    rw [step_of_busy hl hb]
    split
    · simp
    · exact hostTurn_ne_stopped (by rwa [isLive_drawTurn])

theorem step_of_marked {s : State} (h : isLive s = false) : step s = .fault .stopped := by
  simp [step, nextStep, h]

theorem exec_of_marked (i : Instr) {s : State} (h : isLive s = false) : exec i s = .fault .stopped := by
  cases i <;> exact perform_of_marked h _ _

/-- Once a mark is set no run changes the state. -/
theorem runState_of_marked {s : State} (h : isLive s = false) (k : Nat) : runState k s = s := by
  induction k with
  | zero => rfl
  | succ k ih => rw [runState, step_of_marked h, settle_stopped, ih]

/-! ## The step of the host program -/

theorem performWord_of_decode {w : OpWord} {i : Instr} (h : decode w = .ok i) (s : State) :
    performWord w s = exec i s := by
  simp [performWord, h]

theorem step_of_host_drawn {s s0 : State} (hl : isLive s = true) (hb : s.busy = true)
    (hd : drawTurn s = (.host, s0)) : step s = hostTurn s0 := by
  rw [step_of_busy hl hb, hd]

theorem step_of_engine_drawn {s s0 : State} (hl : isLive s = true) (hb : s.busy = true)
    (hd : drawTurn s = (.engine, s0)) : step s = .next (complete s0) := by
  rw [step_of_busy hl hb, hd]

theorem hostTurn_of_decode {s : State} {dst : Option Var} {w : OpWord} {i : Instr}
    (hf : fetch s = some (.op dst w)) (hd : decode w = .ok i) :
    hostTurn s = andThen (exec i s) (fun t => advance (bindResult dst t)) := by
  rw [hostTurn_of_fetch hf, runHostStep, performWord_of_decode hd]

/-! ## The poll -/

/-- The state a status read leaves (40_register_access.md R114). -/
def statusReadState (s : State) : State :=
  { endOp (encode .rdStatus) (.byte (statusRead s.status)) s with armed := s.armed || statusTC s.status }

theorem exec_rdStatus {s : State} (hl : isLive s = true) : exec .rdStatus s = .next (statusReadState s) :=
  perform_of_clear hl (by simp) _

theorem pollNext_of_byte {s : State} {b : Byte} (h : s.result = .byte b) :
    pollNext s = if b.getLsbD 7 then advance s else s := by
  simp only [pollNext, h]

/-- An iteration of `poll` reads the status, and ends the poll if the flag is set (42_driver_operations.md R170). -/
theorem hostTurn_poll {s : State} (hl : isLive s = true) (hf : fetch s = some .poll) :
    hostTurn s = .next (if statusTC s.status then advance (statusReadState s) else statusReadState s) := by
  rw [hostTurn_of_fetch hf, runHostStep, exec_rdStatus hl, andThen_next, pollNext_of_byte rfl, statusRead_bit7]

/-- The host is at a `poll` of an exchange in progress that the flag shows to be unfinished. -/
structure Polling (s : State) : Prop where
  live : isLive s = true
  busy : s.busy = true
  flag : statusTC s.status = false
  atPoll : fetch s = some .poll

/-- A draw of the next agent leaves the host polling. -/
theorem Polling.after_draw {s : State} (h : Polling s) : Polling (drawTurn s).2 where
  live := by simpa using h.live
  busy := by simpa using h.busy
  flag := by simpa using h.flag
  atPoll := by simpa [fetch] using h.atPoll

/-- A poll that finds the flag clear leaves the host polling. -/
theorem Polling.after_statusRead {s : State} (h : Polling s) : Polling (statusReadState s) :=
  ⟨h.live, h.busy, h.flag, h.atPoll⟩

/-- While the exchange is unfinished a step is a completion, or one more iteration of the poll. -/
theorem Polling.step_cases {s : State} (h : Polling s) :
    step s = .next (complete (drawTurn s).2) ∨
      step s = .next (statusReadState (drawTurn s).2) := by
  have h0 := h.after_draw
  cases hd : (drawTurn s).1 with
  | engine => exact .inl (step_of_engine_drawn h.live h.busy (Prod.ext hd rfl))
  | host =>
    refine .inr ((step_of_host_drawn h.live h.busy (Prod.ext hd rfl)).trans ?_)
    rw [hostTurn_poll h0.live h0.atPoll, if_neg (Bool.eq_false_iff.1 h0.flag)]

/-- The completion of an exchange sets the flag, and the next iteration of the poll arms it and ends the poll. -/
theorem Polling.step_complete {s : State} (h : Polling s) :
    step (complete s) = .next (advance (statusReadState (complete s))) := by
  have hl : isLive (complete s) = true := by
    rw [isLive_congr (s := s) (by simp [complete]) (by simp [complete]), h.live]
  have hf : fetch (complete s) = some .poll := by simpa [fetch, complete] using h.atPoll
  have htc : statusTC (complete s).status = true := by simp [complete]
  rw [step_of_idle hl rfl, hostTurn_poll hl hf, htc, if_pos rfl]

/-- A poll of an exchange that a run ends is ended by a run. -/
theorem Polling.run_ends {s u : State} {m : Nat} (h : Polling s) (hu : Host.Core.run core m s = .next u)
    (hb : u.busy = false) :
    ∃ m' t, Host.Core.run core m' s = .next t ∧ t.hpc = s.hpc + 1 ∧ t.busy = false ∧
      t.status.getLsbD 7 = true ∧ t.armed = true := by
  induction m generalizing s with
  | zero =>
    cases hu
    exact absurd hb (by simp [h.busy])
  | succ m ih =>
    obtain hs | hs := h.step_cases
    · refine ⟨2, advance (statusReadState (complete (drawTurn s).2)), ?_, ?_, ?_, ?_, ?_⟩
      · rw [run_succ_of_next hs, run_succ_of_next h.after_draw.step_complete]
        rfl
      · simp [statusReadState, complete]
      · simp [statusReadState, complete]
      · exact statusTC_putTC true _
      · simp [statusReadState, complete]
    · rw [run_succ_of_next hs] at hu
      obtain ⟨m', t, ht, hpc, hend⟩ := ih h.after_draw.after_statusRead hu
      exact ⟨m' + 1, t, (run_succ_of_next hs m').trans ht, by simpa [statusReadState] using hpc, hend⟩

end Sys2Proof.Machine
end

section
/-!
PROOF. The obligations on the scope of the machine (00_scope.md), each from the lemmas above.
-/

namespace Sys2Proof.Machine

/-- Settles O27: the frame of an operation, field by field. -/
theorem operationLeavesTheHostAndTheInputs : Obligations.OperationLeavesTheHostAndTheInputs := by
  intro i s t h
  obtain ⟨hfault, hrefused, hparams, hprog, hhpc, hvars, hturns, hrx, hdraws⟩ := exec_keeps_host h
  exact ⟨hfault, hrefused, hparams, hprog, hhpc, hvars, hturns, hrx, hdraws, exec_keeps_levelInputs h⟩

/-- Settles O29: each part of a step keeps the platform. -/
theorem stepKeepsPlatformAndProgram : Obligations.StepKeepsPlatformAndProgram := by
  intro s t h
  obtain ⟨hparams, hlines, hprog, es, hes⟩ := step_keeps_platform h
  exact ⟨hparams, hlines, hprog, es, hes.symm⟩

/-- Settles O32: a live machine never raises the stuck fault, so its fault sets the mark; and a marked one is stuck. -/
theorem faultSetsOnlyItsMarkForGood : Obligations.FaultSetsOnlyItsMarkForGood := by
  intro s k
  refine ⟨fun hl f hf => ?_, fun hl r hr => ?_, fun hm => ?_⟩
  · have hne : f ≠ .stopped := fun e => step_ne_stopped hl (e ▸ hf)
    rw [runState, hf, settle_fault s hne]
    exact runState_of_marked ((isLive_eq_false_iff _).2 (.inl (by simp))) k
  · rw [runState, hr, settle_refused]
    exact runState_of_marked ((isLive_eq_false_iff _).2 (.inr (by simp))) k
  · have hm := (isLive_eq_false_iff s).2 hm
    exact ⟨step_of_marked hm, fun i => exec_of_marked i hm, runState_of_marked hm k⟩

/-- Settles O38: only a binding changes the list, and it inserts in order. -/
theorem stepKeepsVariablesCanonical : Obligations.StepKeepsVariablesCanonical :=
  fun _ _ h hs => step_keeps_varsWf h hs

/-- Settles O39: the host moves from the state the draw leaves, where the same step is fetched. -/
theorem stepRunsTheDecodedOperation : Obligations.StepRunsTheDecodedOperation := by
  intro s s0 dst w i hl hf hd _ hs0
  obtain ⟨hb, rfl⟩ | ⟨ts, hb, ht, rfl⟩ | ⟨hb, ht, hc, rfl⟩ := hs0
  · rw [step_of_idle hl hb, hostTurn_of_decode hf hd]
  · have draw : drawTurn s = (.host, { s with turns := ts }) := by simp [drawTurn, ht]
    exact (step_of_host_drawn hl hb draw).trans (hostTurn_of_decode hf hd)
  · have draw : drawTurn s = (.host, { s with draws := s.draws + 1 }) := by simp [drawTurn, ht, hc]
    exact (step_of_host_drawn hl hb draw).trans (hostTurn_of_decode hf hd)

/-- Settles O53, by induction on the run in which the premise says the exchange ends. -/
theorem pollEndsUnderEngineLive : Obligations.PollEndsUnderEngineLive := by
  intro s rest hl hb htc hp hlive
  obtain ⟨m, u, hu, hub⟩ := hlive 0 s rfl hb
  exact Polling.run_ends ⟨hl, hb, htc, fetch_of_drop hp⟩ hu hub

end Sys2Proof.Machine
end

section
/-!
SUPPORT. What one operation writes of the block and which events it appends, and what one step of any agent does to the
block (10_state.md R40 to R62, 40_register_access.md R110 to R130, 41_line_control.md R141 to R143).
-/

namespace Sys2Proof.Machine

/-! ## Words and directions -/

/-- Decoding the word of an operation gives the operation back (30_encoding.md R90 to R93). -/
theorem decode_encode (i : Instr) : decode (encode i) = .ok i := by
  cases i with
  | rdCtrl | rdStatus | rdData => rfl
  | wrCtrl v | wrStatus v | wrData v => revert v; decide +kernel
  | lineDir l d => cases d <;> (revert l; decide +kernel)
  | lineSet l v => cases v <;> (revert l; decide +kernel)
  | lineGet l => revert l; decide +kernel

theorem encode_wrData (v : Byte) : encode (.wrData v) = 0x5000#16 + v.setWidth 16 := by
  revert v; decide +kernel

@[simp] theorem dir_ne_inp (d : Dir) : ¬ d = .inp ↔ d = .out := by
  cases d <;> decide

/-! ## The registers -/

/-- The second half of the flag-clearing sequence leaves `DBL` (40_register_access.md R125). -/
theorem statusDBL_clearIfArmed (s : State) : statusDBL (clearIfArmed s).status = statusDBL s.status := by
  obtain ⟨-, e⟩ | ⟨-, e⟩ := clearIfArmed_cases s <;> rw [e]
  exact statusDBL_putTC false s.status

/-- Nor does it change the configuration an exchange runs with. -/
theorem liveCfg_clearIfArmed (c : Byte) (s : State) : liveCfg c (clearIfArmed s).status = liveCfg c s.status := by
  simp only [liveCfg, statusDBL_clearIfArmed]

theorem exec_keeps_rxb {i : Instr} {s t : State} (h : exec i s = .next t) : t.rxb = s.rxb := by
  cases i <;> obtain ⟨-, -, rfl⟩ := (perform_eq_next _ _ _ _).1 h <;> simp

/-- Only `WR_CTRL` writes `CTRL` (10_state.md R40). -/
theorem exec_keeps_ctrl {i : Instr} {s t : State} (h : exec i s = .next t) (hi : ∀ v, i ≠ .wrCtrl v) :
    t.ctrl = s.ctrl := by
  cases i
  case wrCtrl v => exact absurd rfl (hi v)
  all_goals
    obtain ⟨-, -, rfl⟩ := (perform_eq_next _ _ _ _).1 h
    simp

/-- Only `WR_STATUS` writes `DBL` (R54): the data accesses clear `TC` alone. -/
theorem exec_keeps_dbl {i : Instr} {s t : State} (h : exec i s = .next t) (hi : ∀ v, i ≠ .wrStatus v) :
    statusDBL t.status = statusDBL s.status := by
  cases i
  case wrStatus v => exact absurd rfl (hi v)
  all_goals
    obtain ⟨-, -, rfl⟩ := (perform_eq_next _ _ _ _).1 h
    simp [statusDBL_clearIfArmed, -clearIfArmed_status]

/-- Writing `DBL` leaves every other bit of `STATUS` (R54). -/
theorem statusPutDBL_getLsbD (b : Bool) (st : Byte) {k : Nat} (hk : 1 ≤ k) :
    (statusPutDBL b st).getLsbD k = st.getLsbD k := by
  obtain hlt | hge := Nat.lt_or_ge k 8
  · interval_cases k <;> cases b <;> simp [statusPutDBL]
  · rw [BitVec.getLsbD_of_ge _ _ hge, BitVec.getLsbD_of_ge _ _ hge]

/-- Only the data accesses write bits 7:1 of `STATUS` (R51, R53, 40_register_access.md R125). -/
theorem exec_keeps_statusBit {i : Instr} {s t : State} (h : exec i s = .next t) (hw : ∀ v, i ≠ .wrData v)
    (hr : i ≠ .rdData) {k : Nat} (hk : 1 ≤ k) : t.status.getLsbD k = s.status.getLsbD k := by
  cases i
  case wrData v => exact absurd rfl (hw v)
  case rdData => exact absurd rfl hr
  all_goals
    obtain ⟨-, -, rfl⟩ := (perform_eq_next _ _ _ _).1 h
    simp [statusPutDBL_getLsbD _ _ hk]

/-- Only `WR_DATA` writes `TXS`, `XCFG` and `BUSY` (10_state.md R55, R56, R59). -/
theorem exec_keeps_exchange {i : Instr} {s t : State} (h : exec i s = .next t) (hi : ∀ v, i ≠ .wrData v) :
    t.txs = s.txs ∧ t.xcfg = s.xcfg ∧ t.busy = s.busy := by
  cases i
  case wrData v => exact absurd rfl (hi v)
  all_goals
    obtain ⟨-, -, rfl⟩ := (perform_eq_next _ _ _ _).1 h
    simp

/-- Only `RD_STATUS` and the data accesses write `ARMED` (R58). -/
theorem exec_keeps_armed {i : Instr} {s t : State} (h : exec i s = .next t) (hw : ∀ v, i ≠ .wrData v)
    (hr : i ≠ .rdData) (hs : i ≠ .rdStatus) : t.armed = s.armed := by
  cases i
  case wrData v => exact absurd rfl (hw v)
  case rdData => exact absurd rfl hr
  case rdStatus => exact absurd rfl hs
  all_goals
    obtain ⟨-, -, rfl⟩ := (perform_eq_next _ _ _ _).1 h
    simp

/-- A `WR_DATA` that ends normally found no exchange in progress, and starts one (40_register_access.md R115). -/
theorem exec_wrData_next {v : Byte} {s t : State} (h : exec (.wrData v) s = .next t) :
    s.busy = false ∧ t.busy = true ∧ t.txs = v ∧ t.xcfg = liveCfg s.ctrl s.status ∧ t.result = .none := by
  obtain ⟨-, hc, rfl⟩ := (perform_eq_next _ _ _ _).1 h
  have hidle : s.busy = false := hc _ List.mem_cons_self
  simp [hidle, liveCfg_clearIfArmed, -clearIfArmed_status]

/-- An exchange in progress survives every operation (10_state.md R55). -/
theorem exec_keeps_busy {i : Instr} {s t : State} (h : exec i s = .next t) (hb : s.busy = true) : t.busy = true := by
  by_cases hi : ∃ v, i = .wrData v
  · obtain ⟨v, rfl⟩ := hi
    obtain ⟨-, htb, -⟩ := exec_wrData_next h
    exact htb
  · obtain ⟨-, -, htb⟩ := exec_keeps_exchange h (not_exists.1 hi)
    exact htb.trans hb

/-! ## The lines -/

theorem lineAt_congr {s t : State} (h : t.lines = s.lines) (k : LineId) : lineAt t k = lineAt s k := by
  rw [lineAt, lineAt, h]

/-- Only `LINE_DIR` and `LINE_SET` write the line file (10_state.md R60). -/
theorem exec_keeps_lines {i : Instr} {s t : State} (h : exec i s = .next t) (hd : ∀ l d, i ≠ .lineDir l d)
    (hv : ∀ l v, i ≠ .lineSet l v) : t.lines = s.lines := by
  cases i
  case lineDir l d => exact absurd rfl (hd l d)
  case lineSet l v => exact absurd rfl (hv l v)
  all_goals
    obtain ⟨-, -, rfl⟩ := (perform_eq_next _ _ _ _).1 h
    simp

/-- A line written after the end of an operation: that line reads as written, every other as before. -/
theorem lineAt_putLine_endOp {s : State} {l : LineId} (hl : hasLine s l = true) (r : LineRec) (w : OpWord)
    (res : OpResult) (k : LineId) :
    lineAt (putLine l r (endOp w res s)) k = if k = l then r else lineAt s k := by
  split
  · subst k
    exact lineAt_putLine_same hl r
  · exact lineAt_putLine_other _ ‹_› r

/-- The lines after a `LINE_DIR` (41_line_control.md R141). -/
theorem exec_lineDir_lineAt {l : LineId} {d : Dir} {s t : State} (h : exec (.lineDir l d) s = .next t) (k : LineId) :
    lineAt t k = if k = l then { lineAt s l with dir := d } else lineAt s k := by
  obtain ⟨-, hc, rfl⟩ := (perform_eq_next _ _ _ _).1 h
  have hl : hasLine s l = true := by simpa using hc _ List.mem_cons_self
  exact lineAt_putLine_endOp hl _ _ _ k

/-- The lines after a `LINE_SET` (R142). -/
theorem exec_lineSet_lineAt {l : LineId} {v : Level} {s t : State} (h : exec (.lineSet l v) s = .next t) (k : LineId) :
    lineAt t k = if k = l then { lineAt s l with latch := v } else lineAt s k := by
  obtain ⟨-, hc, rfl⟩ := (perform_eq_next _ _ _ _).1 h
  have hl : hasLine s l = true := by simpa using hc _ List.mem_cons_self
  exact lineAt_putLine_endOp hl _ _ _ k

/-- A direction is written only by `LINE_DIR` of that line. -/
theorem exec_keeps_dir {i : Instr} {s t : State} (h : exec i s = .next t) {k : LineId} (hk : ∀ d, i ≠ .lineDir k d) :
    (lineAt t k).dir = (lineAt s k).dir := by
  cases i
  case lineDir l d =>
    have hne : k ≠ l := fun e => hk d (e ▸ rfl)
    rw [exec_lineDir_lineAt h, if_neg hne]
  case lineSet l v =>
    rw [exec_lineSet_lineAt h]
    split
    · subst k; rfl
    · rfl
  all_goals rw [lineAt_congr (exec_keeps_lines h (by simp) (by simp))]

/-- A latch is written only by `LINE_SET` of that line. -/
theorem exec_keeps_latch {i : Instr} {s t : State} (h : exec i s = .next t) {k : LineId}
    (hk : ∀ v, i ≠ .lineSet k v) : (lineAt t k).latch = (lineAt s k).latch := by
  cases i
  case lineDir l d =>
    rw [exec_lineDir_lineAt h]
    split
    · subst k; rfl
    · rfl
  case lineSet l v =>
    have hne : k ≠ l := fun e => hk v (e ▸ rfl)
    rw [exec_lineSet_lineAt h, if_neg hne]
  all_goals rw [lineAt_congr (exec_keeps_lines h (by simp) (by simp))]

/-! ## The history -/

/-- The events an operation appends after its `Op` event (10_state.md R62): the `Start` of an exchange, or the `Line`
event of a line written. -/
def laterEvents (i : Instr) (s : State) : List Event :=
  match i with
  | .wrData v => [.start v (liveCfg s.ctrl s.status) s.lines]
  | .lineDir l d => [.line l d (lineAt s l).latch]
  | .lineSet l v => [.line l (lineAt s l).dir v]
  | _ => []

theorem laterEvents_length_le (i : Instr) (s : State) : (laterEvents i s).length ≤ 1 := by
  cases i <;> simp [laterEvents]

/-- An operation appends its `Op` event, then its later events (40_register_access.md R110). -/
theorem exec_hist {i : Instr} {s t : State} (h : exec i s = .next t) :
    t.hist = s.hist ++ .op (encode i) t.result :: laterEvents i s := by
  cases i <;> obtain ⟨-, -, rfl⟩ := (perform_eq_next _ _ _ _).1 h <;>
    simp [laterEvents, liveCfg_clearIfArmed, -clearIfArmed_status]

/-- Replaying the events of an operation from the block before gives the block after. -/
theorem exec_replay {i : Instr} {s t : State} (h : exec i s = .next t) :
    viewOf t = (.op (encode i) t.result :: laterEvents i s).foldl replayEvent (viewOf s) := by
  cases i <;> obtain ⟨-, -, rfl⟩ := (perform_eq_next _ _ _ _).1 h <;>
    simp only [List.foldl, laterEvents, replayEvent, replayOp, decode_encode]
  case wrData v =>
    obtain ⟨ha, e⟩ | ⟨ha, e⟩ := clearIfArmed_cases (endOp (encode (.wrData v)) .none s) <;>
      rw [endOp_armed] at ha <;> simp [viewOf, ha]
  case rdData =>
    cases ha : s.armed <;> simp [viewOf, ha]
  all_goals simp [viewOf]

/-! ## The hidden registers -/

/-- The state with other values in the registers that no operation reads, `TXS` and `XCFG` (10_state.md R56, R59). -/
def withHidden (x : Byte) (c : XCfg) (s : State) : State := { s with txs := x, xcfg := c }

theorem firstStop_andThen (f : State → State) (t : State) (cs : List (Bool × Stop)) :
    firstStop (f t) cs = andThen (firstStop t cs) f := by
  induction cs with
  | nil => rfl
  | cons c rest ih =>
    obtain ⟨_ | _, e⟩ := c
    · exact ih
    · cases e <;> rfl

/-- Whether an operation stops does not depend on the hidden registers. -/
theorem perform_withHidden (x : Byte) (c : XCfg) (s : State) {t t' : State} (ht : t' = withHidden x c t)
    (cs : List (Bool × Stop)) : perform (withHidden x c s) cs t' = andThen (perform s cs t) (withHidden x c) := by
  subst ht
  have live : isLive (withHidden x c s) = isLive s := rfl
  unfold perform
  rw [live]
  split
  · exact firstStop_andThen _ t cs
  · rfl

theorem clearIfArmed_withHidden (x : Byte) (c : XCfg) (s : State) :
    clearIfArmed (withHidden x c s) = withHidden x c (clearIfArmed s) := by
  have armed : (withHidden x c s).armed = s.armed := rfl
  unfold clearIfArmed
  rw [armed]
  split <;> rfl

theorem observeLevel_withHidden (l : LineId) (x : Byte) (c : XCfg) (s : State) :
    observeLevel l (withHidden x c s) = ((observeLevel l s).1, withHidden x c (observeLevel l s).2) := by
  have drives : drivesLatch (withHidden x c s) l = drivesLatch s l := rfl
  have inputs : (withHidden x c s).levelInputs = s.levelInputs := rfl
  unfold observeLevel drawLevel
  rw [drives, inputs]
  split
  · rfl
  · split <;> rfl

/-- `WR_DATA` overwrites the hidden registers, so nothing of them is left. -/
theorem exec_wrData_withHidden (v x : Byte) (c : XCfg) (s : State) :
    exec (.wrData v) (withHidden x c s) = exec (.wrData v) s := by
  have cleared := clearIfArmed_withHidden x c (endOp (encode (.wrData v)) .none s)
  have started := congrArg (startExchange v) cleared
  exact congrArg (perform s _) started

/-- Every other operation runs as before, and leaves the hidden registers as they are. -/
theorem exec_withHidden {i : Instr} (hi : ∀ v, i ≠ .wrData v) (x : Byte) (c : XCfg) (s : State) :
    exec i (withHidden x c s) = andThen (exec i s) (withHidden x c) := by
  cases i
  case wrData v => exact absurd rfl (hi v)
  case rdData => exact perform_withHidden x c s (clearIfArmed_withHidden x c (endOp _ _ s)) _
  case lineGet l =>
    refine perform_withHidden x c s ?_ _
    rw [observeLevel_withHidden]
    rfl
  all_goals exact perform_withHidden x c s (by rfl) _

/-! ## A step of any agent, as the block sees it -/

/-- Two states with the same block, history, marks and parameters: they differ at most in the host's side and in the
inputs from outside. -/
structure SameBlock (s t : State) : Prop where
  view : viewOf t = viewOf s
  hist : t.hist = s.hist
  fault : t.fault = s.fault
  refused : t.refused = s.refused
  params : t.params = s.params

section
variable {s t u : State}

theorem SameBlock.refl (s : State) : SameBlock s s :=
  ⟨rfl, rfl, rfl, rfl, rfl⟩

theorem SameBlock.trans (h : SameBlock s t) (k : SameBlock t u) : SameBlock s u :=
  ⟨k.view.trans h.view, k.hist.trans h.hist, k.fault.trans h.fault, k.refused.trans h.refused, k.params.trans h.params⟩

theorem SameBlock.status (h : SameBlock s t) : t.status = s.status := congrArg BlockView.status h.view
theorem SameBlock.busy (h : SameBlock s t) : t.busy = s.busy := congrArg BlockView.busy h.view
theorem SameBlock.txs (h : SameBlock s t) : t.txs = s.txs := congrArg BlockView.txs h.view
theorem SameBlock.rxb (h : SameBlock s t) : t.rxb = s.rxb := congrArg BlockView.rxb h.view
theorem SameBlock.xcfg (h : SameBlock s t) : t.xcfg = s.xcfg := congrArg BlockView.xcfg h.view
theorem SameBlock.lines (h : SameBlock s t) : t.lines = s.lines := congrArg BlockView.lines h.view
theorem SameBlock.isLive (h : SameBlock s t) : isLive t = isLive s := isLive_congr h.fault h.refused

theorem HostOnly.sameBlock (h : HostOnly s t) : SameBlock s t := by
  rw [h]
  constructor <;> rfl

end

theorem sameBlock_drawTurn (s : State) : SameBlock s (drawTurn s).2 := by
  constructor <;> simp [viewOf]

/-- The engine's step ends the exchange with the byte drawn (40_register_access.md R130). -/
theorem sameBlock_complete (s : State) :
    SameBlock (completeWith (drawByte (drawTurn s).2).1 s) (complete (drawTurn s).2) := by
  constructor <;> simp [complete, viewOf]

/-- Everything a step with a next state can do to the block: complete the exchange in progress, perform one operation,
or nothing (00_scope.md R10). -/
theorem step_block {s t : State} (h : step s = .next t) :
    isLive s = true ∧
    ((s.busy = true ∧ ∃ b, SameBlock (completeWith b s) t) ∨
      (∃ i s0 u, SameBlock s s0 ∧ exec i s0 = .next u ∧ SameBlock u t) ∨ SameBlock s t) := by
  obtain ⟨hl, ⟨hb, rfl⟩ | ⟨s0, hs0, ht⟩⟩ := step_next h
  · exact ⟨hl, .inl ⟨hb, _, sameBlock_complete s⟩⟩
  · refine ⟨hl, .inr ?_⟩
    have before : SameBlock s s0 := by
      obtain ⟨rfl, -⟩ | ⟨rfl, -⟩ := hs0
      · exact SameBlock.refl _
      · exact sameBlock_drawTurn s
    obtain ⟨i, u, hu, hut⟩ | hst := ht
    · exact .inl ⟨i, s0, u, before, hu, hut.sameBlock⟩
    · exact .inr (before.trans hst.sameBlock)

/-- Only a completion ends an exchange. -/
theorem step_busy_falls {s t : State} (h : step s = .next t) (hb : s.busy = true) (htb : t.busy = false) :
    ∃ b, SameBlock (completeWith b s) t := by
  obtain ⟨-, ⟨-, hdone⟩ | ⟨i, s0, u, hs0, hu, ht⟩ | ht⟩ := step_block h
  · exact hdone
  · rw [ht.busy, exec_keeps_busy hu (hs0.busy.trans hb)] at htb
    cases htb
  · rw [ht.busy, hb] at htb
    cases htb

/-- Only a `WR_DATA` starts an exchange. -/
theorem step_busy_rises {s t : State} (h : step s = .next t) (hb : s.busy = false) (htb : t.busy = true) :
    ∃ v s0 u, SameBlock s s0 ∧ exec (.wrData v) s0 = .next u ∧ SameBlock u t := by
  obtain ⟨-, ⟨hbusy, -⟩ | ⟨i, s0, u, hs0, hu, ht⟩ | ht⟩ := step_block h
  · rw [hb] at hbusy
    cases hbusy
  · by_cases hi : ∃ v, i = .wrData v
    · obtain ⟨v, rfl⟩ := hi
      exact ⟨v, s0, u, hs0, hu, ht⟩
    · obtain ⟨-, -, hub⟩ := exec_keeps_exchange hu (not_exists.1 hi)
      rw [ht.busy, hub, hs0.busy, hb] at htb
      cases htb
  · rw [ht.busy, hb] at htb
    cases htb

/-! ## The invariant -/

/-- With no exchange in progress, only the clauses on `ARMED`, the third control-role line and the fixed bits are left. -/
theorem Inv.of_idle {s : State} (idle : s.busy = false)
    (armed_tc : s.armed = true → statusTC s.status = true)
    (master_ss : isMaster s = true → lineDirAt s s.params.ss = .out)
    (ie_zero : ctrlIE s.ctrl = false) (ord_zero : ctrlORD s.ctrl = false)
    (status_reserved : s.status &&& 0x7E#8 = 0x00#8) : Inv s := by
  have hn : s.busy ≠ true := by simp [idle]
  exact ⟨armed_tc, master_ss, (absurd · hn), (absurd · hn), (absurd · hn), (absurd · hn), ie_zero, ord_zero,
    status_reserved⟩

/-- The invariant speaks of the block and of the parameters alone. -/
theorem Inv.congr {s t : State} (hi : Inv s) (hv : viewOf t = viewOf s) (hp : t.params = s.params) : Inv t := by
  simp only [viewOf, BlockView.mk.injEq] at hv
  obtain ⟨hctrl, hstatus, hbusy, -, -, harmed, hxcfg, hlines⟩ := hv
  have dir (k : LineId) : lineDirAt t k = lineDirAt s k := congrArg LineRec.dir (lineAt_congr hlines k)
  obtain ⟨⟩ := hi
  constructor <;> simpa only [isMaster, dir, hctrl, hstatus, hbusy, harmed, hxcfg, hp]

theorem Inv.after_endOp {s : State} (hi : Inv s) (w : OpWord) (r : OpResult) : Inv (endOp w r s) :=
  hi.congr rfl rfl

/-- Clearing `TC` and `ARMED` together keeps the invariant, also during an exchange. -/
theorem Inv.after_clearIfArmed {s : State} (hi : Inv s) : Inv (clearIfArmed s) := by
  obtain ⟨-, e⟩ | ⟨-, e⟩ := clearIfArmed_cases s <;> rw [e]
  · exact { hi with
      armed_tc := fun h => absurd h Bool.false_ne_true
      busy_xcfg := fun hb => (hi.busy_xcfg hb).trans (liveCfg_putTC _ _ _).symm
      status_reserved := (statusPutTC_reserved _ _).trans hi.status_reserved }
  · exact hi

/-- An exchange may begin with the engine an enabled master and its two outputs (40_register_access.md R115). -/
theorem Inv.after_startExchange {s : State} (hi : Inv s) (hm : isMaster s = true) (hsck : lineDirAt s s.params.sck = .out)
    (hmosi : lineDirAt s s.params.mosi = .out) (v : Byte) : Inv (startExchange v s) :=
  { hi with
    busy_master := fun _ => hm
    busy_sck := fun _ => hsck
    busy_mosi := fun _ => hmosi
    busy_xcfg := fun _ => rfl }

/-- An output stays one unless it is written as an input. -/
theorem lineDirAt_putLine_out {s : State} {k l : LineId} {r : LineRec} (hl : hasLine s l = true)
    (hk : lineDirAt s k = .out) (hr : k = l → r.dir = .out) : lineDirAt (putLine l r s) k = .out := by
  by_cases e : k = l
  · rw [lineDirAt, e, lineAt_putLine_same hl, hr e]
  · rw [lineDirAt, lineAt_putLine_other s e]
    exact hk

/-- A line may be written if no line that the invariant holds an output becomes an input. -/
theorem Inv.after_putLine {s : State} (hi : Inv s) {l : LineId} (hl : hasLine s l = true) {r : LineRec}
    (hss : isMaster s = true → s.params.ss = l → r.dir = .out)
    (hsck : s.busy = true → s.params.sck = l → r.dir = .out)
    (hmosi : s.busy = true → s.params.mosi = l → r.dir = .out) : Inv (putLine l r s) :=
  { hi with
    master_ss := fun hm => lineDirAt_putLine_out hl (hi.master_ss hm) (hss hm)
    busy_sck := fun hb => lineDirAt_putLine_out hl (hi.busy_sck hb) (hsck hb)
    busy_mosi := fun hb => lineDirAt_putLine_out hl (hi.busy_mosi hb) (hmosi hb) }

theorem Inv.after_completeWith {s : State} (hi : Inv s) (b : Byte) : Inv (completeWith b s) :=
  Inv.of_idle rfl (fun _ => statusTC_putTC true s.status) hi.master_ss hi.ie_zero hi.ord_zero
    ((statusPutTC_reserved _ _).trans hi.status_reserved)

/-- `WR_CTRL` refuses the fixed bits and a master without its third control-role line (40_register_access.md R111). -/
theorem Inv.after_wrCtrl {v : Byte} {s t : State} (hi : Inv s) (h : exec (.wrCtrl v) s = .next t) : Inv t := by
  obtain ⟨-, hc, rfl⟩ := (perform_eq_next _ _ _ _).1 h
  obtain ⟨hie, hord, hidle, hss⟩ : ctrlIE v = false ∧ ctrlORD v = false ∧ s.busy = false ∧
      (ctrlMaster v = true → lineDirAt s s.params.ss = .out) := by simpa using hc
  exact Inv.of_idle hidle hi.armed_tc hss hie hord hi.status_reserved

theorem Inv.after_wrStatus {v : Byte} {s t : State} (hi : Inv s) (h : exec (.wrStatus v) s = .next t) : Inv t := by
  obtain ⟨-, hc, rfl⟩ := (perform_eq_next _ _ _ _).1 h
  have hidle : s.busy = false := by simpa using hc
  refine Inv.of_idle hidle ?_ hi.master_ss hi.ie_zero hi.ord_zero ?_
  · simpa using hi.armed_tc
  · exact (statusPutDBL_reserved _ _).trans hi.status_reserved

/-- A status read arms only if it returned `TC` = 1 (R114). -/
theorem Inv.after_rdStatus {s t : State} (hi : Inv s) (h : exec .rdStatus s = .next t) : Inv t := by
  obtain ⟨-, -, rfl⟩ := (perform_eq_next _ _ _ _).1 h
  refine { hi with armed_tc := fun ha => ?_ }
  obtain ha | htc : s.armed = true ∨ statusTC s.status = true := by simpa using ha
  · exact hi.armed_tc ha
  · exact htc

theorem Inv.after_wrData {v : Byte} {s t : State} (hi : Inv s) (h : exec (.wrData v) s = .next t) : Inv t := by
  obtain ⟨-, hc, rfl⟩ := (perform_eq_next _ _ _ _).1 h
  obtain ⟨-, ⟨hen, hmstr⟩, hsck, hmosi⟩ : s.busy = false ∧ (ctrlEN s.ctrl = true ∧ ctrlMSTR s.ctrl = true) ∧
      lineDirAt s s.params.sck = .out ∧ lineDirAt s s.params.mosi = .out := by simpa using hc
  have cleared := (hi.after_endOp (encode (.wrData v)) .none).after_clearIfArmed
  refine cleared.after_startExchange ?_ ?_ ?_ v
  · simp [isMaster, ctrlMaster, hen, hmstr]
  · simpa [lineDirAt, lineAt] using hsck
  · simpa [lineDirAt, lineAt] using hmosi

/-- `LINE_DIR` leaves the engine lines during an exchange, and a master's third control-role line an output
(41_line_control.md R141). -/
theorem Inv.after_lineDir {l : LineId} {d : Dir} {s t : State} (hi : Inv s) (h : exec (.lineDir l d) s = .next t) :
    Inv t := by
  obtain ⟨-, hc, rfl⟩ := (perform_eq_next _ _ _ _).1 h
  obtain ⟨hl, hengine, hss⟩ : hasLine s l = true ∧ (isEngineLine s l = true → s.busy = false) ∧
      (l = s.params.ss → d = .inp → isMaster s = false) := by simpa using hc
  have out_of_busy (hb : s.busy = true) (hl : s.params.sck = l ∨ s.params.mosi = l) : d = .out := by
    have engine : isEngineLine s l = true := by
      obtain rfl | rfl := hl <;> simp [isEngineLine, isWireLine]
    rw [hengine engine] at hb
    cases hb
  refine (hi.after_endOp _ _).after_putLine hl (fun hm e => ?_) (fun hb e => out_of_busy hb (.inl e))
    (fun hb e => out_of_busy hb (.inr e))
  exact (dir_ne_inp d).1 fun hd => Bool.false_ne_true ((hss e.symm hd).symm.trans hm)

/-- `LINE_SET` writes no direction (R142). -/
theorem Inv.after_lineSet {l : LineId} {v : Level} {s t : State} (hi : Inv s) (h : exec (.lineSet l v) s = .next t) :
    Inv t := by
  obtain ⟨-, hc, rfl⟩ := (perform_eq_next _ _ _ _).1 h
  have hl : hasLine s l = true := by simpa using hc _ List.mem_cons_self
  refine (hi.after_endOp _ _).after_putLine hl ?_ ?_ ?_
  · exact fun hm e => e ▸ hi.master_ss hm
  · exact fun hb e => e ▸ hi.busy_sck hb
  · exact fun hb e => e ▸ hi.busy_mosi hb

theorem exec_keeps_inv {i : Instr} {s t : State} (hi : Inv s) (h : exec i s = .next t) : Inv t := by
  cases i with
  | wrCtrl v => exact hi.after_wrCtrl h
  | wrStatus v => exact hi.after_wrStatus h
  | rdStatus => exact hi.after_rdStatus h
  | wrData v => exact hi.after_wrData h
  | lineDir l d => exact hi.after_lineDir h
  | lineSet l v => exact hi.after_lineSet h
  | rdData =>
    obtain ⟨-, -, rfl⟩ := (perform_eq_next _ _ _ _).1 h
    exact (hi.after_endOp _ _).after_clearIfArmed
  | rdCtrl =>
    obtain ⟨-, -, rfl⟩ := (perform_eq_next _ _ _ _).1 h
    exact hi.after_endOp _ _
  | lineGet l =>
    obtain ⟨-, -, rfl⟩ := (perform_eq_next _ _ _ _).1 h
    exact hi.congr (by simp [viewOf]) (by simp)

end Sys2Proof.Machine
end

section
/-!
PROOF. The obligations on the state (10_state.md), each from the lemmas above.
-/

namespace Sys2Proof.Machine

/-- Settles O35: a completion and every operation keep the invariant, and no step with a next state sets a mark. -/
theorem stepKeepsTheInvariant : Obligations.StepKeepsTheInvariant := by
  intro s t hi h
  obtain ⟨hl, ⟨-, b, ht⟩ | ⟨i, s0, u, hs0, hu, ht⟩ | ht⟩ := step_block h
  · exact ⟨(hi.after_completeWith b).congr ht.view ht.params, ht.isLive.trans hl⟩
  · have hu' : Inv u := exec_keeps_inv (hi.congr hs0.view hs0.params) hu
    have hlu : isLive u = isLive s0 := isLive_congr (exec_keeps_host hu).fault (exec_keeps_host hu).refused
    exact ⟨hu'.congr ht.view ht.params, ht.isLive.trans (hlu.trans (hs0.isLive.trans hl))⟩
  · exact ⟨hi.congr ht.view ht.params, ht.isLive.trans hl⟩

/-- Settles O36: the block and the history change only by a completion or by an operation, and each is told by the
events it appends. -/
theorem historyTellsEveryChange : Obligations.HistoryTellsEveryChange := by
  intro s t h
  obtain ⟨-, ⟨-, b, ht⟩ | ⟨i, s0, u, hs0, hu, ht⟩ | ht⟩ := step_block h
  · exact ⟨[.done s.txs b], ht.hist, ht.view⟩
  · refine ⟨.op (encode i) u.result :: laterEvents i s0, ?_, ?_⟩
    · rw [ht.hist, exec_hist hu, hs0.hist]
    · rw [ht.view, exec_replay hu, hs0.view]
  · exact ⟨[], by simp [ht.hist], ht.view⟩

/-- Settles O14: of all that a step can do, only a completion ends an exchange and only a `WR_DATA` starts one. -/
theorem busyChangesOnlyByStartAndCompletion : Obligations.BusyChangesOnlyByStartAndCompletion := by
  intro s t h
  refine ⟨fun hb htb => ?_, fun hb htb => ?_⟩
  · obtain ⟨b, ht⟩ := step_busy_falls h hb htb
    refine ⟨b, ht.rxb, ?_, ht.hist⟩
    rw [ht.status]
    exact statusTC_putTC true s.status
  · obtain ⟨v, s0, u, hs0, hu, ht⟩ := step_busy_rises h hb htb
    obtain ⟨-, -, htxs, hxcfg, hres⟩ := exec_wrData_next hu
    refine ⟨v, ht.txs.trans htxs, ?_⟩
    rw [ht.hist, exec_hist hu, hres, encode_wrData, ht.xcfg, hxcfg, hs0.hist, laterEvents, hs0.lines]

/-- Settles O24: one frame for each register. -/
theorem registersAreWrittenOnlyByTheirOperations : Obligations.RegistersAreWrittenOnlyByTheirOperations := by
  intro i s t h
  exact ⟨exec_keeps_rxb h, exec_keeps_ctrl h, exec_keeps_dbl h, fun hw hr _ => exec_keeps_statusBit h hw hr,
    exec_keeps_exchange h, exec_keeps_armed h⟩

/-- Settles O25: a write of one line keeps the field that its operation does not name, and every other line. -/
theorem linesAreWrittenOnlyByTheirOperations : Obligations.LinesAreWrittenOnlyByTheirOperations := by
  intro i s t h
  exact ⟨(exec_keeps_platform h).lineCount, fun _ => exec_keeps_dir h, fun _ => exec_keeps_latch h⟩

/-- Settles O26: the events are the `Op` event and the operation's later events. -/
theorem operationAppendsItsOpEventFirst : Obligations.OperationAppendsItsOpEventFirst := by
  intro i s t h
  exact ⟨laterEvents i s, exec_hist h, laterEvents_length_le i s⟩

/-- Settles O28: with other hidden values `WR_DATA` has the very same outcome, and every other operation the same
outcome with the hidden values carried over. -/
theorem operationsDoNotReadTheHiddenRegisters : Obligations.OperationsDoNotReadTheHiddenRegisters := by
  intro i s s' x c hs'
  by_cases hi : ∃ v, i = .wrData v
  · obtain ⟨v, rfl⟩ := hi
    have same : exec (.wrData v) s' = exec (.wrData v) s := hs' ▸ exec_wrData_withHidden v x c s
    rw [same]
    exact ⟨fun _ => id, fun _ => id, fun _ => id⟩
  · have carried : exec i s' = andThen (exec i s) (withHidden x c) :=
      hs' ▸ exec_withHidden (not_exists.1 hi) x c s
    rw [carried]
    refine ⟨fun t h => ?_, fun f h => by rw [h]; rfl, fun r h => by rw [h]; rfl⟩
    rw [h, andThen_next]
    split
    · exact absurd ⟨_, rfl⟩ hi
    · rfl

/-- Settles O34: no exchange, no master and no flag at reset. -/
theorem resetMeetsTheInvariant : Obligations.ResetMeetsTheInvariant := by
  intro p n
  have idle : (State.resetFor p n).busy = false := rfl
  refine ⟨Inv.of_idle idle ?_ ?_ ?_ ?_ ?_, rfl⟩ <;>
    simp [State.resetFor, isMaster, ctrlMaster, ctrlEN, ctrlIE, ctrlORD]

end Sys2Proof.Machine
end

section
/-!
SUPPORT. What an operation finds and leaves around an exchange (10_state.md R55, 40_register_access.md R115, R116), and host
accesses by address: at a register, wider than one byte, or away from every register (20_memory.md R73, R74).
-/

namespace Sys2Proof.Machine

/-! ## Operations around an exchange -/

theorem exec_next_live {i : Instr} {s t : State} (h : exec i s = .next t) : isLive t = true := by
  have hl : isLive s = true := by
    cases hs : isLive s with
    | true => rfl
    | false =>
      rw [exec_of_marked i hs] at h
      cases h
  exact (isLive_congr (exec_keeps_host h).fault (exec_keeps_host h).refused).trans hl

theorem exec_rdData_of_busy {s : State} (hl : isLive s = true) (hb : s.busy = true) :
    exec .rdData s = .fault (.readWhileBusy (encode .rdData)) := by
  rw [exec, execRdData, hb]
  exact perform_stop hl _ _ _

/-- During an exchange both data accesses fault, so an operation that ends normally is neither (R115, R116). -/
theorem exec_busy_not_data {i : Instr} {s t : State} (h : exec i s = .next t) (hb : s.busy = true) :
    (∀ v, i ≠ .wrData v) ∧ i ≠ .rdData := by
  refine ⟨?_, ?_⟩
  · rintro v rfl
    obtain ⟨hidle, -⟩ := exec_wrData_next h
    exact absurd hb (by simp [hidle])
  · rintro rfl
    obtain ⟨-, hc, -⟩ := (perform_eq_next _ _ _ _).1 h
    have hidle : s.busy = false := hc _ List.mem_cons_self
    exact absurd hb (by simp [hidle])

/-- Without an armed flag a `WR_DATA` leaves `STATUS` and `ARMED` as they are (40_register_access.md R125). -/
theorem exec_wrData_unarmed {v : Byte} {s t : State} (h : exec (.wrData v) s = .next t) (ha : s.armed = false) :
    t.status = s.status ∧ t.armed = false := by
  obtain ⟨-, -, rfl⟩ := (perform_eq_next _ _ _ _).1 h
  simp [ha]

/-! ## Host accesses by address -/

section
variable {p : Params} {addr n : Nat} {s : State}

/-- The address of a register (20_memory.md R77). -/
def regAddr (p : Params) : RegName → Nat
  | .ctrl => p.addrCtrl
  | .status => p.addrStatus
  | .data => p.addrData

/-- With distinct addresses, the register at a register's address is that register. -/
theorem regAt_regAddr (h : p.addrsDistinct = true) (r : RegName) : regAt p (regAddr p r) = some r := by
  obtain ⟨⟨hcs, hcd⟩, hsd⟩ : (p.addrCtrl ≠ p.addrStatus ∧ p.addrCtrl ≠ p.addrData) ∧ p.addrStatus ≠ p.addrData := by
    simpa [Params.addrsDistinct] using h
  cases r with
  | ctrl => simp [regAt, regAddr]
  | status => simp [regAt, regAddr, hcs.symm]
  | data => simp [regAt, regAddr, hcd.symm, hsd.symm]

theorem touchesReg_eq_true_iff (p : Params) (addr n : Nat) :
    touchesReg p addr n = true ↔
      ∃ a, (a = p.addrCtrl ∨ a = p.addrStatus ∨ a = p.addrData) ∧ addr ≤ a ∧ a < addr + n := by
  simp [touchesReg, covers, or_assoc]

theorem touchesReg_eq_false_iff (p : Params) (addr n : Nat) :
    touchesReg p addr n = false ↔
      ∀ a, (a = p.addrCtrl ∨ a = p.addrStatus ∨ a = p.addrData) → a < addr ∨ addr + n ≤ a := by
  rw [← Bool.not_eq_true, touchesReg_eq_true_iff, not_exists]
  refine forall_congr' fun a => ?_
  omega

theorem touchesReg_regAddr (p : Params) (r : RegName) : touchesReg p (regAddr p r) 1 = true := by
  cases r <;> simp [touchesReg, covers, regAddr]

/-- A one-byte read at a register's address is its read operation (R74). -/
theorem loadAccess_regAddr (h : s.params.addrsDistinct = true) (x : Var) (r : RegName) :
    loadAccess x (regAddr s.params r) 1 s = andThen (exec (readInstr r) s) (bindResult (some x)) := by
  simp [loadAccess, touchesReg_regAddr, regAt_regAddr h]

/-- A one-byte write at a register's address is its write operation (R74). -/
theorem storeAccess_regAddr (h : s.params.addrsDistinct = true) (v : HostInt) (r : RegName) :
    storeAccess (regAddr s.params r) 1 v s = exec (writeInstr r (truncByte v)) s := by
  simp [storeAccess, touchesReg_regAddr, regAt_regAddr h]

/-- A read that touches no register binds its variable to a free value, and draws that value (R74). -/
theorem loadAccess_elsewhere (hl : isLive s = true) (ht : touchesReg s.params addr n = false) (x : Var) :
    loadAccess x addr n s =
      .next (setVar x (platformValue n (Config.platformRead s.draws)) { s with draws := s.draws + 1 }) := by
  rw [loadAccess, ht]
  exact perform_of_clear hl (by simp) _

/-- A write that touches no register changes nothing (R74). -/
theorem storeAccess_elsewhere (hl : isLive s = true) (ht : touchesReg s.params addr n = false) (v : HostInt) :
    storeAccess addr n v s = .next s := by
  rw [storeAccess, ht]
  exact perform_of_clear hl (by simp) _

/-- A read of more than one byte that touches a register is refused (R73). -/
theorem loadAccess_wide (hl : isLive s = true) (ht : touchesReg s.params addr n = true) (hn : n ≠ 1) (x : Var) :
    loadAccess x addr n s = .refused (.wideAccess (.read addr n)) := by
  rw [loadAccess, if_pos ht, if_neg hn]
  exact perform_stop hl _ _ _

/-- A write of more than one byte that touches a register is refused (R73). -/
theorem storeAccess_wide (hl : isLive s = true) (ht : touchesReg s.params addr n = true) (hn : n ≠ 1) (v : HostInt) :
    storeAccess addr n v s = .refused (.wideAccess (.write addr n v)) := by
  rw [storeAccess, if_pos ht, if_neg hn]
  exact perform_stop hl _ _ _

end

end Sys2Proof.Machine
end

section
/-!
PROOF. The obligations on the host's accesses and the flag they see (20_memory.md), each from the lemmas above.
-/

namespace Sys2Proof.Machine

/-- Settles O16: of all that a step can do, only a completion writes `RXB` or sets `TC`; no data access ends normally
during the exchange, and every other operation keeps the flag and the exchange. -/
theorem flagStaysClearUntilCompletion : Obligations.FlagStaysClearUntilCompletion := by
  intro s t hb htc h
  obtain ⟨-, ⟨-, b, ht⟩ | ⟨i, s0, u, hs0, hu, ht⟩ | ht⟩ := step_block h
  · refine .inr ⟨ht.busy, ?_, b, ht.rxb, ht.hist⟩
    rw [ht.status]
    exact statusTC_putTC true s.status
  · have hb0 : s0.busy = true := hs0.busy.trans hb
    obtain ⟨hw, hr⟩ := exec_busy_not_data hu hb0
    obtain ⟨htxs, hxcfg, hbusy⟩ := exec_keeps_exchange hu hw
    have hflag : u.status.getLsbD 7 = s0.status.getLsbD 7 := exec_keeps_statusBit hu hw hr (by decide)
    refine .inl ⟨?_, ?_, ?_, ?_, ?_⟩
    · rw [ht.busy, hbusy, hb0]
    · rw [ht.status, hflag, hs0.status, htc]
    · rw [ht.rxb, exec_keeps_rxb hu, hs0.rxb]
    · rw [ht.txs, htxs, hs0.txs]
    · rw [ht.xcfg, hxcfg, hs0.xcfg]
  · refine .inl ⟨ht.busy.trans hb, ?_, ht.rxb, ht.txs, ht.xcfg⟩
    rw [ht.status, htc]

/-- Settles O17: the `WR_DATA` clears nothing, so the status read returns the stale flag and arms, and the exchange it
started is still in progress at the `RD_DATA`. -/
theorem staleFlagSurvivesWrData : Obligations.StaleFlagSurvivesWrData := by
  intro v s t htc ha h
  obtain ⟨hst, hta⟩ := exec_wrData_unarmed h ha
  obtain ⟨-, htb, -⟩ := exec_wrData_next h
  have htc' : statusTC t.status = true := by rwa [hst]
  have hread : exec .rdStatus t = .next (statusReadState t) := exec_rdStatus (exec_next_live h)
  refine ⟨htc', hta, htb, statusReadState t, statusRead t.status, hread, rfl, ?_, ?_, ?_⟩
  · rw [statusRead_bit7, htc']
  · simp [statusReadState, htc']
  · exact exec_rdData_of_busy (exec_next_live hread) htb

/-- Settles O40: the three registers' one-byte accesses, and the accesses that touch none of them. -/
theorem hostAccessesAreTheRegisterOperations : Obligations.HostAccessesAreTheRegisterOperations := by
  refine ⟨fun s x v h => ?_, fun s x v addr n hl haway => ?_⟩
  · exact ⟨loadAccess_regAddr h x .ctrl, loadAccess_regAddr h x .status, loadAccess_regAddr h x .data,
      storeAccess_regAddr h v .ctrl, storeAccess_regAddr h v .status, storeAccess_regAddr h v .data⟩
  · have ht : touchesReg s.params addr n = false := (touchesReg_eq_false_iff _ _ _).2 haway
    exact ⟨storeAccess_elsewhere hl ht v, _, loadAccess_elsewhere hl ht x, rfl, rfl,
      fun y hy => getVar_setVar_other hy _ _⟩

/-- Settles O41: the access touches a register and is not of one byte. -/
theorem wideAccessIsRefused : Obligations.WideAccessIsRefused := by
  intro s x v addr n a hl hn ha hle hlt
  have ht : touchesReg s.params addr n = true := (touchesReg_eq_true_iff _ _ _).2 ⟨a, ha, hle, hlt⟩
  have hne : n ≠ 1 := Nat.ne_of_gt hn
  exact ⟨loadAccess_wide hl ht hne x, storeAccess_wide hl ht hne v⟩

end Sys2Proof.Machine
end

section
/-!
SUPPORT. Words by their fields (30_encoding.md R91, R92), what a row of the opcode map matches (R93), and what the
decoder answers (R96 to R98).
-/

namespace Sys2Proof

/-! ## A word is its fields side by side -/

/-- Two words put side by side are equal exactly if each part is. -/
theorem append_inj_iff {m n : Nat} {x x' : BitVec m} {y y' : BitVec n} : x ++ y = x' ++ y' ↔ x = x' ∧ y = y' := by
  refine ⟨fun h => ⟨?_, ?_⟩, fun ⟨hx, hy⟩ => hx ▸ hy ▸ rfl⟩
  · simpa [BitVec.extractLsb'_append_eq_left] using congrArg (BitVec.extractLsb' n m) h
  · simpa [BitVec.extractLsb'_append_eq_right] using congrArg (BitVec.extractLsb' 0 n) h

theorem toNat_append_eq_add {m n : Nat} (x : BitVec m) (y : BitVec n) :
    (x ++ y).toNat = x.toNat * 2 ^ n + y.toNat := by
  rw [BitVec.toNat_append, ← Nat.shiftLeft_add_eq_or_of_lt y.isLt, Nat.shiftLeft_eq]

/-- The fields of format R (R91). -/
theorem exists_formatR (w : OpWord) : ∃ (op z4 : BitVec 4) (imm : Byte), w = op ++ z4 ++ imm := by
  refine ⟨w.extractLsb' 12 4, w.extractLsb' 8 4, w.extractLsb' 0 8, ?_⟩
  rw [BitVec.extractLsb'_append_extractLsb'_eq_extractLsb' (by decide : 12 = 8 + 4),
    BitVec.extractLsb'_append_extractLsb'_eq_extractLsb' (by decide : 8 = 0 + 8), BitVec.extractLsb'_eq_self]

/-- The fields of format L (R92). -/
theorem exists_formatL (w : OpWord) :
    ∃ (op : BitVec 4) (line : LineId) (z3 : BitVec 3) (val : BitVec 1), w = op ++ line ++ z3 ++ val := by
  refine ⟨w.extractLsb' 12 4, w.extractLsb' 4 8, w.extractLsb' 1 3, w.extractLsb' 0 1, ?_⟩
  rw [BitVec.extractLsb'_append_extractLsb'_eq_extractLsb' (by decide : 12 = 4 + 8),
    BitVec.extractLsb'_append_extractLsb'_eq_extractLsb' (by decide : 4 = 1 + 3),
    BitVec.extractLsb'_append_extractLsb'_eq_extractLsb' (by decide : 1 = 0 + 1), BitVec.extractLsb'_eq_self]

@[simp] theorem immField_formatR (op z4 : BitVec 4) (imm : Byte) : immField (op ++ z4 ++ imm) = imm :=
  BitVec.extractLsb'_append_eq_right

@[simp] theorem valField_formatL (op : BitVec 4) (line : LineId) (z3 : BitVec 3) (val : BitVec 1) :
    valField (op ++ line ++ z3 ++ val) = val :=
  BitVec.extractLsb'_append_eq_right

@[simp] theorem lineField_formatL (op : BitVec 4) (line : LineId) (z3 : BitVec 3) (val : BitVec 1) :
    lineField (op ++ line ++ z3 ++ val) = line := by
  unfold lineField
  rw [BitVec.extractLsb'_append_eq_of_le (by decide), BitVec.extractLsb'_append_eq_of_le (by decide)]
  exact BitVec.extractLsb'_append_eq_right

@[simp] theorem toNat_immField (w : OpWord) : (immField w).toNat = w.toNat % 2 ^ 8 := by
  simp [immField]

@[simp] theorem toNat_lineField (w : OpWord) : (lineField w).toNat = w.toNat / 2 ^ 4 % 2 ^ 8 := by
  simp [lineField, Nat.shiftRight_eq_div_pow]

@[simp] theorem toNat_valField (w : OpWord) : (valField w).toNat = w.toNat % 2 := by
  simp [valField]

@[simp] theorem dirBit_dirOfBit (b : BitVec 1) : dirBit (dirOfBit b) = b := by
  revert b; decide

@[simp] theorem levelBit_levelOfBit (b : BitVec 1) : levelBit (levelOfBit b) = b := by
  revert b; decide

/-! ## Words as numbers -/

/-- A word of format R as a number (R91, R100). -/
theorem toNat_formatR (op : BitVec 4) (imm : Byte) :
    (op ++ 0#4 ++ imm).toNat = op.toNat * 2 ^ 12 + imm.toNat := by
  simp only [toNat_append_eq_add, BitVec.toNat_ofNat]
  omega

/-- A word of format L as a number (R92, R100). -/
theorem toNat_formatL (op : BitVec 4) (line : LineId) (val : BitVec 1) :
    (op ++ line ++ 0#3 ++ val).toNat = op.toNat * 2 ^ 12 + line.toNat * 2 ^ 4 + val.toNat := by
  simp only [toNat_append_eq_add, BitVec.toNat_ofNat]
  omega

/-- The fields of format R do not overlap, so their sum puts them side by side (R100). -/
theorem sum_eq_formatR (op : BitVec 4) (imm : Byte) : (op ++ 0#12 : OpWord) + imm.setWidth 16 = op ++ 0#4 ++ imm := by
  apply BitVec.eq_of_toNat_eq
  simp only [BitVec.toNat_add, toNat_append_eq_add, BitVec.toNat_setWidth, BitVec.toNat_ofNat]
  omega

/-- The fields of format L do not overlap, so their sum puts them side by side (R100). -/
theorem sum_eq_formatL (op : BitVec 4) (line : LineId) (val : BitVec 1) :
    (op ++ 0#12 : OpWord) + (line.setWidth 16 <<< 4) + val.setWidth 16 = op ++ line ++ 0#3 ++ val := by
  apply BitVec.eq_of_toNat_eq
  simp only [BitVec.toNat_add, toNat_append_eq_add, BitVec.toNat_setWidth, BitVec.toNat_ofNat,
    BitVec.toNat_shiftLeft, Nat.shiftLeft_eq]
  omega

/-- A word is a write's exactly if its opcode is the write's and its `z4` is zero (R91). -/
theorem eq_write_iff (op : BitVec 4) (w : OpWord) :
    w = op ++ 0#4 ++ immField w ↔ w.toNat / 2 ^ 12 = op.toNat ∧ w.toNat / 2 ^ 8 % 2 ^ 4 = 0 := by
  rw [← BitVec.toNat_inj, toNat_formatR, toNat_immField]
  omega

/-- A read's `imm8` is zero too (R91). -/
theorem eq_read_iff (op : BitVec 4) (w : OpWord) :
    w = op ++ 0#4 ++ 0#8 ↔ w.toNat / 2 ^ 12 = op.toNat ∧ w.toNat / 2 ^ 8 % 2 ^ 4 = 0 ∧ w.toNat % 2 ^ 8 = 0 := by
  rw [← BitVec.toNat_inj, toNat_formatR, BitVec.toNat_ofNat]
  omega

/-- A word is a `LINE_DIR` or `LINE_SET` exactly if its opcode is the operation's and its `z3` is zero (R92). -/
theorem eq_line_iff (op : BitVec 4) (w : OpWord) :
    w = op ++ lineField w ++ 0#3 ++ valField w ↔ w.toNat / 2 ^ 12 = op.toNat ∧ w.toNat / 2 % 2 ^ 3 = 0 := by
  rw [← BitVec.toNat_inj, toNat_formatL, toNat_lineField, toNat_valField]
  omega

/-- The `val` of a `LINE_GET` is zero too (R92). -/
theorem eq_lineGet_iff (op : BitVec 4) (w : OpWord) :
    w = op ++ lineField w ++ 0#3 ++ 0#1 ↔
      w.toNat / 2 ^ 12 = op.toNat ∧ w.toNat / 2 % 2 ^ 3 = 0 ∧ w.toNat % 2 = 0 := by
  rw [← BitVec.toNat_inj, toNat_formatL, toNat_lineField, BitVec.toNat_ofNat]
  omega

/-! ## What a row matches -/

/-- The mask of a write keeps `op` and `z4` and leaves `imm8` free (R93). -/
theorem and_writeMask_eq_iff (op : BitVec 4) (w : OpWord) :
    w &&& 0xFF00#16 = op ++ 0#4 ++ 0#8 ↔ w = op ++ 0#4 ++ immField w := by
  obtain ⟨op', z4, imm, rfl⟩ := exists_formatR w
  rw [immField_formatR]
  change op' ++ z4 ++ imm &&& BitVec.allOnes 4 ++ BitVec.allOnes 4 ++ 0#8 = op ++ 0#4 ++ 0#8 ↔
    op' ++ z4 ++ imm = op ++ 0#4 ++ imm
  simp only [BitVec.and_append, BitVec.and_allOnes, BitVec.and_zero, append_inj_iff, and_true]

/-- The mask of `LINE_DIR` and `LINE_SET` keeps `op` and `z3` and leaves `line` and `val` free (R93). -/
theorem and_lineMask_eq_iff (op : BitVec 4) (w : OpWord) :
    w &&& 0xF00E#16 = op ++ 0#8 ++ 0#3 ++ 0#1 ↔ w = op ++ lineField w ++ 0#3 ++ valField w := by
  obtain ⟨op', line, z3, val, rfl⟩ := exists_formatL w
  rw [lineField_formatL, valField_formatL]
  change op' ++ line ++ z3 ++ val &&& BitVec.allOnes 4 ++ 0#8 ++ BitVec.allOnes 3 ++ 0#1 =
    op ++ 0#8 ++ 0#3 ++ 0#1 ↔ op' ++ line ++ z3 ++ val = op ++ line ++ 0#3 ++ val
  simp only [BitVec.and_append, BitVec.and_allOnes, BitVec.and_zero, append_inj_iff, and_true]

/-- The mask of `LINE_GET` keeps `val` too (R93). -/
theorem and_lineGetMask_eq_iff (op : BitVec 4) (w : OpWord) :
    w &&& 0xF00F#16 = op ++ 0#8 ++ 0#3 ++ 0#1 ↔ w = op ++ lineField w ++ 0#3 ++ 0#1 := by
  obtain ⟨op', line, z3, val, rfl⟩ := exists_formatL w
  rw [lineField_formatL]
  change op' ++ line ++ z3 ++ val &&& BitVec.allOnes 4 ++ 0#8 ++ BitVec.allOnes 3 ++ BitVec.allOnes 1 =
    op ++ 0#8 ++ 0#3 ++ 0#1 ↔ op' ++ line ++ z3 ++ val = op ++ line ++ 0#3 ++ 0#1
  simp only [BitVec.and_append, BitVec.and_allOnes, BitVec.and_zero, append_inj_iff, and_true]

/-- The mask of a read keeps every bit (R93). -/
theorem and_readMask_eq_iff (p w : OpWord) : w &&& 0xFFFF#16 = p ↔ w = p := by
  rw [show 0xFFFF#16 = BitVec.allOnes 16 from rfl, BitVec.and_allOnes]

/-- A row matches exactly the words of the operations it builds: its mask covers all but their operands (R93). -/
theorem rowMatches_iff_eq_encode {r : OpRow} (hr : r ∈ opcodeRows) (w : OpWord) :
    rowMatches w r = true ↔ w = encode (r.build w) := by
  refine beq_iff_eq.trans ?_
  simp only [opcodeRows, List.mem_cons, List.not_mem_nil, or_false] at hr
  obtain rfl | rfl | rfl | rfl | rfl | rfl | rfl | rfl | rfl := hr
  · exact and_writeMask_eq_iff 0x1#4 w
  · exact and_readMask_eq_iff 0x2000#16 w
  · exact and_writeMask_eq_iff 0x3#4 w
  · exact and_readMask_eq_iff 0x4000#16 w
  · exact and_writeMask_eq_iff 0x5#4 w
  · exact and_readMask_eq_iff 0x6000#16 w
  · rw [encode, dirBit_dirOfBit]
    exact and_lineMask_eq_iff 0x7#4 w
  · rw [encode, levelBit_levelOfBit]
    exact and_lineMask_eq_iff 0x8#4 w
  · exact and_lineGetMask_eq_iff 0x9#4 w

/-- No two rows build the same operation. -/
theorem opcodeRows_build_ne : opcodeRows.Pairwise (fun a b => ∀ w, a.build w ≠ b.build w) := by
  simp [opcodeRows]

/-! ## What the decoder answers -/

/-- A word that decodes is built by a row that it matches. -/
theorem decodeIn_ok {rs : List OpRow} {w : OpWord} {i : Instr} (h : decodeIn rs w = .ok i) :
    ∃ r ∈ rs, rowMatches w r = true ∧ r.build w = i := by
  induction rs with
  | nil => cases h
  | cons r rs ih =>
    rw [decodeIn] at h
    split at h
    case isTrue hm =>
      cases h
      exact ⟨r, List.mem_cons_self, hm, rfl⟩
    case isFalse =>
      obtain ⟨r', hr', hm⟩ := ih h
      exact ⟨r', List.mem_cons_of_mem r hr', hm⟩

/-- The decoder answers an error exactly on the words that match no row (R98). -/
theorem decodeIn_eq_error_iff (rs : List OpRow) (w : OpWord) :
    decodeIn rs w = .error .illegalOperation ↔ ∀ r ∈ rs, rowMatches w r = false := by
  induction rs with
  | nil => simp [decodeIn]
  | cons r rs ih => cases hm : rowMatches w r <;> simp [decodeIn, hm, ih]

/-- A word that matches a row decodes to what the row builds, whichever rows come before it (R98). -/
theorem decode_of_rowMatches {r : OpRow} (hr : r ∈ opcodeRows) {w : OpWord} (hm : rowMatches w r = true) :
    decode w = .ok (r.build w) := by
  rw [← Machine.decode_encode (r.build w), ← (rowMatches_iff_eq_encode hr w).1 hm]

/-- A word is illegal exactly if it is the word of nothing that a row builds from its fields (R96, R97). -/
theorem decode_eq_error_iff (w : OpWord) :
    decode w = .error .illegalOperation ↔ ∀ r ∈ opcodeRows, w ≠ encode (r.build w) := by
  refine (decodeIn_eq_error_iff opcodeRows w).trans (forall₂_congr fun r hr => ?_)
  rw [← Bool.not_eq_true, rowMatches_iff_eq_encode hr]

/-- Performing an illegal word in a live machine is refused (R96, R97). -/
theorem performWord_of_illegal {w : OpWord} (h : decode w = .error .illegalOperation) {s : Machine.State}
    (hl : Machine.isLive s = true) : Machine.performWord w s = .refused (.illegalOperation w) := by
  rw [Machine.performWord, h]
  exact Machine.perform_stop hl _ _ _

end Sys2Proof
end

section
/-!
PROOF. The obligations on the encoding (30_encoding.md), each from the lemmas above.
-/

namespace Sys2Proof

/-- Settles O1: the round trip holds of every operation. -/
theorem decodeOfEncodeIsIdentity : Obligations.DecodeOfEncodeIsIdentity :=
  fun i _ => Machine.decode_encode i

/-- Settles O2: the word decodes by a row that it matches, and a row matches only words of what it builds. -/
theorem decodedWordIsTheEncodersWord : Obligations.DecodedWordIsTheEncodersWord := by
  intro w i h
  obtain ⟨r, hr, hm, rfl⟩ := decodeIn_ok h
  exact ((rowMatches_iff_eq_encode hr w).1 hm).symm

/-- Settles O3: an illegal word is the word of no row's operation; read field by field and opcode by opcode, that is
the clauses' disjunction. -/
theorem reservedWordsAreIllegalAndRefused : Obligations.ReservedWordsAreIllegalAndRefused := by
  intro w op z4 imm z3 val hop hz4 himm hz3 hval
  refine ⟨?_, fun h s hl => performWord_of_illegal h hl⟩
  have op_lt : op < 16 := hop ▸ Nat.div_lt_of_lt_mul w.isLt
  rw [decode_eq_error_iff]
  simp only [opcodeRows, List.forall_mem_cons, List.not_mem_nil, false_imp_iff, implies_true, and_true, encode,
    dirBit_dirOfBit, levelBit_levelOfBit, ne_eq, eq_write_iff, eq_read_iff, eq_line_iff, eq_lineGet_iff,
    BitVec.toNat_ofNat, ← hop, ← hz4, ← himm, ← hz3, ← hval]
  clear hop hz4 himm hz3 hval
  interval_cases op <;> simp [imp_iff_not_or]

/-- Settles O4: a word of two rows would decode to what each builds, and no two rows build the same operation. -/
theorem eachWordMatchesAtMostOneRow : Obligations.EachWordMatchesAtMostOneRow := by
  refine ⟨opcodeRows_build_ne.imp_of_mem fun {a b} ha hb hne w ⟨hma, hmb⟩ => hne w ?_,
    fun w => (decodeIn_eq_error_iff opcodeRows w).2⟩
  exact Except.ok.inj ((decode_of_rowMatches ha hma).symm.trans (decode_of_rowMatches hb hmb))

/-- Settles O6: each format's sum puts its fields side by side. -/
theorem assemblerSumsAreTheWords : Obligations.AssemblerSumsAreTheWords := by
  intro p cs a
  cases a with
  | rdCtrl | rdStatus | rdData => rfl
  | wrCtrl v => exact sum_eq_formatR 0x1#4 v
  | wrStatus v => exact sum_eq_formatR 0x3#4 v
  | wrData v => exact sum_eq_formatR 0x5#4 v
  | dir l d => exact sum_eq_formatL 0x7#4 (lineIdOf p cs l) (dirBit d)
  | set l v => exact sum_eq_formatL 0x8#4 (lineIdOf p cs l) (levelBit v)
  | get l => simpa [assemble, asmInstr, encode] using sum_eq_formatL 0x9#4 (lineIdOf p cs l) 0#1

/-- Settles O5: nine of the words are the words of their operations, and the other three match no row. -/
theorem sampleWordsDecodeAsTabled : Obligations.SampleWordsDecodeAsTabled :=
  ⟨Machine.decode_encode (.wrCtrl 0x51#8), Machine.decode_encode .rdCtrl, Machine.decode_encode (.wrStatus 0x01#8),
    Machine.decode_encode .rdStatus, Machine.decode_encode (.wrData 0x12#8), Machine.decode_encode .rdData,
    Machine.decode_encode (.lineDir 255#8 .out), Machine.decode_encode (.lineSet 9#8 .low),
    Machine.decode_encode (.lineGet 9#8), by decide, by decide, by decide⟩

end Sys2Proof
end

section
/-!
SUPPORT. The words and the status byte of the register operations as numbers, the flag-clearing sequence, the completion
and the unfinished poll (40_register_access.md R111 to R116, R124, R125, R130, R131).
-/

namespace Sys2Proof.Machine

/-! ## Words and register bytes -/

theorem encode_wrCtrl (v : Byte) : encode (.wrCtrl v) = 0x1000#16 + v.setWidth 16 :=
  (sum_eq_formatR 0x1#4 v).symm

theorem encode_wrStatus (v : Byte) : encode (.wrStatus v) = 0x3000#16 + v.setWidth 16 :=
  (sum_eq_formatR 0x3#4 v).symm

theorem statusPutTC_false (st : Byte) : statusPutTC false st = st &&& 0x7F#8 :=
  BitVec.or_zero

theorem statusPutTC_true (st : Byte) : statusPutTC true st = st ||| 0x80#8 := by
  revert st; decide

/-- What a status read returns, as a sum of the two flags' weights (10_state.md R50). -/
theorem statusRead_eq_add (st : Byte) :
    statusRead st = (if statusTC st then 0x80#8 else 0x00#8) + (if statusDBL st then 0x01#8 else 0x00#8) := by
  unfold statusRead
  cases statusTC st <;> cases statusDBL st <;> rfl

/-- Every base divisor is even, so the double-speed modifier halves it exactly (40_register_access.md R124). -/
theorem two_mul_half_baseDivisor (rate : BitVec 2) : 2 * (baseDivisor rate / 2) = baseDivisor rate := by
  revert rate; decide

/-- A control read of a live machine returns `CTRL` and leaves the block as it is (40_register_access.md R112). -/
theorem exec_rdCtrl {s : State} (hl : isLive s = true) :
    exec .rdCtrl s = .next (endOp (encode .rdCtrl) (.byte s.ctrl) s) :=
  perform_of_clear hl (by simp) _

/-! ## The flag-clearing sequence -/

/-- The second half of the sequence, whether or not `ARMED` was 1 (40_register_access.md R125). -/
theorem clearIfArmed_eq (s : State) :
    clearIfArmed s =
      { s with status := if s.armed then s.status &&& 0x7F#8 else s.status, armed := false } := by
  obtain ⟨ha, e⟩ | ⟨ha, e⟩ := clearIfArmed_cases s
  · rw [e, statusPutTC_false, if_pos ha]
  · rw [e, if_neg (Bool.eq_false_iff.1 ha), ← ha]

/-- The two data accesses, `RD_DATA` and `WR_DATA`. -/
def IsDataAccess (i : Instr) : Prop := i = .rdData ∨ ∃ v, i = .wrData v

/-- The end of an operation and the clearing of its flags commute. -/
theorem clearIfArmed_endOp (w : OpWord) (r : OpResult) (s : State) :
    clearIfArmed (endOp w r s) = endOp w r (clearIfArmed s) := by
  have armed : (endOp w r s).armed = s.armed := rfl
  unfold clearIfArmed
  rw [armed]
  split <;> rfl

/-- The flags cleared, an exchange starts with the configuration as it was: `TC` is no part of it (R115). -/
theorem startExchange_clearIfArmed (v : Byte) (s : State) :
    startExchange v (clearIfArmed s) = { s with
      status := if s.armed then s.status &&& 0x7F#8 else s.status
      armed := false
      txs := v
      xcfg := liveCfg s.ctrl s.status
      busy := true
      hist := s.hist ++ [.start v (liveCfg s.ctrl s.status) s.lines] } := by
  have cfg : liveCfg (clearIfArmed s).ctrl (clearIfArmed s).status = liveCfg s.ctrl s.status := by
    rw [clearIfArmed_ctrl, liveCfg_clearIfArmed]
  rw [startExchange, cfg, clearIfArmed_eq]
  rfl

/-- A data access leaves `STATUS` and `ARMED` as the flag-clearing sequence does. -/
theorem exec_dataAccess_flags {i : Instr} {s t : State} (hi : IsDataAccess i) (h : exec i s = .next t) :
    t.status = (clearIfArmed s).status ∧ t.armed = false := by
  obtain rfl | ⟨v, rfl⟩ := hi <;> obtain ⟨-, -, rfl⟩ := (perform_eq_next _ _ _ _).1 h <;> rw [clearIfArmed_endOp]
  · exact ⟨rfl, clearIfArmed_armed s⟩
  · exact ⟨rfl, clearIfArmed_armed s⟩

theorem statusTC_clearIfArmed (s : State) :
    statusTC (clearIfArmed s).status = (!s.armed && statusTC s.status) := by
  obtain ⟨ha, e⟩ | ⟨ha, e⟩ := clearIfArmed_cases s <;> rw [e, ha]
  · exact statusTC_putTC false s.status
  · rfl

/-- An operation clears `TC` only if it is a data access made while `ARMED` = 1. -/
theorem exec_clears_flag {i : Instr} {s t : State} (h : exec i s = .next t) (hs : statusTC s.status = true)
    (ht : statusTC t.status = false) : IsDataAccess i ∧ s.armed = true ∧ t.armed = false := by
  by_cases hi : IsDataAccess i
  · obtain ⟨hst, hta⟩ := exec_dataAccess_flags hi h
    rw [hst, statusTC_clearIfArmed, hs] at ht
    exact ⟨hi, by simpa using ht, hta⟩
  · obtain ⟨hr, hw⟩ := not_or.1 hi
    have kept : statusTC t.status = statusTC s.status :=
      exec_keeps_statusBit h (not_exists.1 hw) hr (by decide)
    rw [kept, hs] at ht
    cases ht

/-! ## A step of any agent -/

theorem SameBlock.armed {s t : State} (h : SameBlock s t) : t.armed = s.armed := congrArg BlockView.armed h.view

/-- The state from which the host takes its turn has the block of the state before the step. -/
theorem sameBlock_of_mover {s s0 : State} (h : s0 = s ∧ s.busy = false ∨ s0 = (drawTurn s).2 ∧ s.busy = true) :
    SameBlock s s0 := by
  obtain ⟨rfl, -⟩ | ⟨rfl, -⟩ := h
  · exact SameBlock.refl _
  · exact sameBlock_drawTurn s

/-- A step clears `TC` only by a data access made while `ARMED` = 1. -/
theorem step_clears_flag {s t : State} (h : step s = .next t) (hs : statusTC s.status = true)
    (ht : statusTC t.status = false) :
    s.armed = true ∧ t.armed = false ∧
      ∃ i es, IsDataAccess i ∧ t.hist = s.hist ++ .op (encode i) t.result :: es := by
  obtain ⟨-, ⟨-, rfl⟩ | ⟨s0, hs0, ⟨i, u, hu, hut⟩ | hut⟩⟩ := step_next h
  · have set : statusTC (complete (drawTurn s).2).status = true := statusTC_putTC true _
    rw [set] at ht
    cases ht
  · have before := sameBlock_of_mover hs0
    have after := hut.sameBlock
    have result : t.result = u.result := by rw [hut]
    rw [after.status] at ht
    rw [← before.status] at hs
    obtain ⟨hi, ha, hua⟩ := exec_clears_flag hu hs ht
    refine ⟨before.armed.symm.trans ha, after.armed.trans hua, i, laterEvents i s0, hi, ?_⟩
    rw [after.hist, exec_hist hu, before.hist, result]
  · rw [((sameBlock_of_mover hs0).trans hut.sameBlock).status, hs] at ht
    cases ht

/-! ## The completion -/

/-- The completion when the peripheral's byte is an input (40_register_access.md R130, log 4). -/
theorem complete_of_input {s : State} {i : Byte} {is : List Byte} (h : s.rxInputs = i :: is) :
    complete s = { s with
      rxb := some i
      status := s.status ||| 0x80#8
      busy := false
      hist := s.hist ++ [.done s.txs i]
      rxInputs := is } := by
  have draw : drawByte s = (i, { s with rxInputs := is }) := by simp [drawByte, h]
  rw [complete, draw, ← statusPutTC_true]
  rfl

/-- The completion when no input is left: the byte is the free value (R130, log 4). -/
theorem complete_of_free {s : State} (h : s.rxInputs = []) :
    complete s = { s with
      rxb := some (Config.peripheral s.hist s.txs s.xcfg)
      status := s.status ||| 0x80#8
      busy := false
      hist := s.hist ++ [.done s.txs (Config.peripheral s.hist s.txs s.xcfg)] } := by
  have draw : drawByte s = (Config.peripheral s.hist s.txs s.xcfg, s) := by simp [drawByte, h]
  rw [complete, draw, ← statusPutTC_true]
  rfl

/-! ## The unfinished poll -/

/-- When the host moves, an unfinished poll reads the status once more (42_driver_operations.md R170). -/
theorem Polling.step_of_host {s : State} (h : Polling s) (hd : (drawTurn s).1 = .host) :
    step s = .next (statusReadState (drawTurn s).2) := by
  have h0 := h.after_draw
  rw [step_of_host_drawn h.live h.busy (Prod.ext hd rfl), hostTurn_poll h0.live h0.atPoll,
    if_neg (Bool.eq_false_iff.1 h0.flag)]

/-- While the schedule gives the host its turns, the poll goes on, and takes one answer of the schedule a step (R131). -/
theorem Polling.run_of_host {k : Nat} {s : State} (h : Polling s) (hk : comingTurns k s = List.replicate k .host) :
    ∃ t, Host.Core.run core k s = .next t ∧ Polling t ∧ t.hpc = s.hpc ∧ t.turns = s.turns.drop k ∧
      t.draws = s.draws + (k - s.turns.length) := by
  induction k generalizing s with
  | zero => exact ⟨s, rfl, h, rfl, rfl, by simp⟩
  | succ k ih =>
    rw [comingTurns_succ, List.replicate_succ, List.cons.injEq] at hk
    obtain ⟨hd, hk⟩ := hk
    have coming : comingTurns k (statusReadState (drawTurn s).2) = comingTurns k (drawTurn s).2 :=
      comingTurns_congr k rfl rfl
    obtain ⟨t, hrun, ht, hpc, hturns, hdraws⟩ := ih h.after_draw.after_statusRead (coming.trans hk)
    refine ⟨t, (run_succ_of_next (h.step_of_host hd) k).trans hrun, ht, ?_, ?_, ?_⟩
    · simpa [statusReadState] using hpc
    · simpa [statusReadState] using hturns
    · rw [hdraws]
      simp only [statusReadState, endOp_draws, endOp_turns, drawTurn_snd, List.length_drop]
      omega

end Sys2Proof.Machine
end

section
/-!
PROOF. The obligations on the register operations and the engine (40_register_access.md), each from the lemmas above.
-/

namespace Sys2Proof.Machine

/-- Settles O7: each stop is the first condition that holds, and with none left the byte is stored. -/
theorem wrCtrlStoresOrStopsInOrder : Obligations.WrCtrlStoresOrStopsInOrder := by
  intro v s hl
  rw [← encode_wrCtrl, exec, execWrCtrl]
  refine ⟨fun (hie : ctrlIE v = true) => ?_, fun (hie : ctrlIE v = false) (hord : ctrlORD v = true) => ?_,
    fun (hie : ctrlIE v = false) (hord : ctrlORD v = false) hb => ?_,
    fun (hie : ctrlIE v = false) (hord : ctrlORD v = false) hb (hen : ctrlEN v = true)
      (hm : ctrlMSTR v = true) hss => ?_,
    fun (hie : ctrlIE v = false) (hord : ctrlORD v = false) hb
      (hss : ctrlEN v = true → ctrlMSTR v = true → lineDirAt s s.params.ss = .out) => ?_⟩
  · rw [hie]
    exact perform_stop hl _ _ _
  · rw [hie, hord, perform_skip]
    exact perform_stop hl _ _ _
  · rw [hie, hord, hb, perform_skip, perform_skip]
    exact perform_stop hl _ _ _
  · rw [hie, hord, hb, ctrlMaster, hen, hm, hss, perform_skip, perform_skip, perform_skip]
    exact perform_stop hl _ _ _
  · exact perform_of_clear hl (by simpa [hie, hord, hb, ctrlMaster] using hss) _

/-- Settles O8: the read returns `CTRL`, which only `WR_CTRL` writes, and whose fixed bits the invariant keeps 0. -/
theorem rdCtrlReturnsTheLastByteWritten : Obligations.RdCtrlReturnsTheLastByteWritten := by
  refine ⟨fun s hl => exec_rdCtrl hl, fun p n => ⟨_, exec_rdCtrl rfl, rfl⟩, fun i s t h => ?_, fun s t r hi h hr => ?_⟩
  · refine ⟨_, exec_rdCtrl (exec_next_live h), congrArg OpResult.byte ?_⟩
    cases i with
    | wrCtrl v =>
      obtain ⟨-, -, rfl⟩ := (perform_eq_next _ _ _ _).1 h
      rfl
    | _ => exact exec_keeps_ctrl h (by simp)
  · obtain ⟨-, -, rfl⟩ := (perform_eq_next _ _ _ _).1 h
    cases hr
    exact ⟨hi.ie_zero, hi.ord_zero⟩

/-- Settles O9: the write of `DBL` leaves every other bit of `STATUS`. -/
theorem wrStatusWritesDblOnlyOrFaults : Obligations.WrStatusWritesDblOnlyOrFaults := by
  intro v s hl
  rw [← encode_wrStatus, exec, execWrStatus]
  refine ⟨fun hb => ?_, fun hb => ?_⟩
  · rw [hb]
    exact perform_stop hl _ _ _
  · exact ⟨statusPutDBL (v.getLsbD 0) s.status, statusDBL_putDBL _ _, fun k hk => statusPutDBL_getLsbD _ _ hk,
      perform_of_clear hl (by simpa using hb) _⟩

/-- Settles O10: the byte read is the sum of its flags, and arming is a disjunction with `TC`. -/
theorem rdStatusReturnsFlagsAndArms : Obligations.RdStatusReturnsFlagsAndArms := by
  intro s hl
  refine ⟨statusRead s.status, statusRead_eq_add s.status, (exec_rdStatus hl).trans ?_⟩
  have arms : (s.armed || statusTC s.status) = if statusTC s.status then true else s.armed := by
    cases statusTC s.status <;> simp
  rw [statusReadState, arms]
  rfl

/-- Settles O11: each stop is the first condition that holds; with none left the flag is cleared if armed, which does
not touch the configuration, and the exchange starts. -/
theorem wrDataStartsAnExchangeOrStopsInOrder : Obligations.WrDataStartsAnExchangeOrStopsInOrder := by
  intro v s hl
  rw [← encode_wrData, exec, execWrData]
  refine ⟨fun hb => ?_, fun hb (hm : ctrlEN s.ctrl = false ∨ ctrlMSTR s.ctrl = false) => ?_,
    fun hb (hen : ctrlEN s.ctrl = true) (hm : ctrlMSTR s.ctrl = true) hin => ?_,
    fun hb (hen : ctrlEN s.ctrl = true) (hm : ctrlMSTR s.ctrl = true) hsck hmosi => ?_⟩
  · rw [hb]
    exact perform_stop hl _ _ _
  · have unconfigured : (!ctrlEN s.ctrl || !ctrlMSTR s.ctrl) = true := by simpa using hm
    rw [hb, unconfigured, perform_skip]
    exact perform_stop hl _ _ _
  · have configured : (!ctrlEN s.ctrl || !ctrlMSTR s.ctrl) = false := by simp [hen, hm]
    have input : (lineDirAt s s.params.sck == .inp || lineDirAt s s.params.mosi == .inp) = true := by
      simpa using hin
    rw [hb, configured, input, perform_skip, perform_skip]
    exact perform_stop hl _ _ _
  · refine ⟨liveCfg s.ctrl s.status, rfl, ?_⟩
    rw [perform_of_clear hl (by simp [hb, hen, hm, hsck, hmosi]), startExchange_clearIfArmed, endOp_hist,
      List.append_assoc]
    rfl

/-- Settles O12: each stop is the first condition that holds; with none left the byte of `RXB` is returned. -/
theorem rdDataReturnsTheReceivedByteOrStops : Obligations.RdDataReturnsTheReceivedByteOrStops := by
  intro s hl
  refine ⟨exec_rdData_of_busy hl, fun hb hrx => ?_, fun i hb hrx => ?_⟩ <;> rw [exec, execRdData]
  · rw [hb, hrx, perform_skip]
    exact perform_stop hl _ _ _
  · rw [perform_of_clear hl (by simp [hb, hrx]), clearIfArmed_endOp, clearIfArmed_eq]
    simp only [endOp, emit]
    rw [hrx]
    rfl

/-- Settles O13: the draw gives the engine the step, and the peripheral's byte is the next input or the free value. -/
theorem completionEndsTheExchange : Obligations.CompletionEndsTheExchange := by
  intro s s0 hl hb hs0
  have draw : drawTurn s = (.engine, s0) := by
    obtain ⟨ts, ht, rfl⟩ | ⟨ht, hc, rfl⟩ := hs0
    · simp [drawTurn, ht]
    · simp [drawTurn, ht, hc]
  rw [step_of_engine_drawn hl hb draw]
  obtain ⟨ts, -, rfl⟩ | ⟨-, -, rfl⟩ := hs0 <;>
    exact ⟨fun i is hi => congrArg _ (complete_of_input hi), fun hi => congrArg _ (complete_of_free hi)⟩

/-- Settles O15: a completion sets `TC`, host work leaves it, and an operation clears it only as an armed data access. -/
theorem flagClearsOnlyByArmedDataAccess : Obligations.FlagClearsOnlyByArmedDataAccess := by
  refine ⟨fun i s t hi ha h => ?_, fun s t htc h => ?_, fun s t => step_clears_flag⟩
  · obtain ⟨hst, hta⟩ := exec_dataAccess_flags hi h
    have cleared : statusTC t.status = false := by rw [hst, statusTC_clearIfArmed, ha]; rfl
    exact ⟨cleared, hta⟩
  · obtain ⟨-, -, rfl⟩ := (perform_eq_next _ _ _ _).1 h
    have armed : (s.armed || statusTC s.status) = true := Bool.or_eq_true_iff.2 (.inr htc)
    exact armed

/-- Settles O52: the host is polling, and polls on at each of its turns. -/
theorem unfinishedExchangePollsOn : Obligations.UnfinishedExchangePollsOn := by
  intro s rest k hl hb htc hp hk
  obtain ⟨t, hrun, ht, hpc, hturns, hdraws⟩ := Polling.run_of_host ⟨hl, hb, htc, fetch_of_drop hp⟩ hk
  exact ⟨t, hrun, ht.busy, ht.flag, hpc, hturns, hdraws, ht.live⟩

/-- Settles O54: the table by its eight selectors, and the halving by the base divisors being even. -/
theorem divisorsAreTheTable : Obligations.DivisorsAreTheTable := by
  rintro ⟨cpol, cpha, rate, dbl⟩
  refine ⟨?_, ?_⟩
  · revert cpol cpha rate dbl
    decide
  · rintro ⟨⟩
    exact two_mul_half_baseDivisor rate

end Sys2Proof.Machine
end

section
/-!
SUPPORT. The line operations: their words as numbers, the model's tests of a line as propositions, what a line write and a
level read leave, and a step's stops apart from its effect (10_state.md R60, R61, 41_line_control.md R140 to R146).
-/

namespace Sys2Proof.Machine

/-! ## Words -/

theorem encode_lineDir (l : LineId) (d : Dir) :
    encode (.lineDir l d) = 0x7000#16 + (l.setWidth 16 <<< 4) + (if d = .out then 1#16 else 0#16) := by
  have bit : (dirBit d).setWidth 16 = if d = .out then 1#16 else 0#16 := by cases d <;> rfl
  rw [← bit]
  exact (sum_eq_formatL 0x7#4 l (dirBit d)).symm

theorem encode_lineSet (l : LineId) (v : Level) :
    encode (.lineSet l v) = 0x8000#16 + (l.setWidth 16 <<< 4) + (if v = .high then 1#16 else 0#16) := by
  have bit : (levelBit v).setWidth 16 = if v = .high then 1#16 else 0#16 := by cases v <;> rfl
  rw [← bit]
  exact (sum_eq_formatL 0x8#4 l (levelBit v)).symm

theorem encode_lineGet (l : LineId) : encode (.lineGet l) = 0x9000#16 + (l.setWidth 16 <<< 4) :=
  (sum_eq_formatL 0x9#4 l 0#1).symm.trans (BitVec.add_zero _)

/-! ## The tests of a line -/

theorem hasLine_iff (s : State) (l : LineId) : hasLine s l = true ↔ l.toNat < s.lines.length :=
  decide_eq_true_iff

theorem hasLine_eq_false_iff (s : State) (l : LineId) : hasLine s l = false ↔ s.lines.length ≤ l.toNat :=
  decide_eq_false_iff_not.trans Nat.not_lt

theorem isWireLine_iff (s : State) (l : LineId) :
    isWireLine s l = true ↔ l = s.params.sck ∨ l = s.params.mosi ∨ l = s.params.miso := by
  simp [isWireLine, or_assoc]

theorem isEngineLine_iff (s : State) (l : LineId) :
    isEngineLine s l = true ↔
      l = s.params.sck ∨ l = s.params.mosi ∨ l = s.params.miso ∨ l = s.params.ss := by
  simp [isEngineLine, isWireLine, or_assoc]

theorem isMaster_iff (s : State) : isMaster s = true ↔ s.ctrl.getLsbD 6 = true ∧ s.ctrl.getLsbD 4 = true :=
  Bool.and_eq_true_iff

/-- A line drives its latch as an output that is not the clock or data-out line of an enabled master (10_state.md R61). -/
theorem drivesLatch_iff (s : State) (l : LineId) :
    drivesLatch s l = true ↔
      (lineAt s l).dir = .out ∧ ¬ ((l = s.params.sck ∨ l = s.params.mosi) ∧ isMaster s = true) := by
  rw [drivesLatch, Bool.and_eq_true_iff, Bool.not_eq_true', ← Bool.not_eq_true, Bool.and_eq_true_iff,
    Bool.or_eq_true_iff, beq_iff_eq, beq_iff_eq, beq_iff_eq, lineDirAt]

/-! ## Writing a line -/

/-- The end of an operation that writes a line (41_line_control.md R141, R142). -/
theorem putLine_endOp (l : LineId) (r : LineRec) (w : OpWord) (res : OpResult) (s : State) :
    putLine l r (endOp w res s) = { s with
      lines := s.lines.set l.toNat r
      result := res
      hist := s.hist ++ [.op w res, .line l r.dir r.latch] } := by
  rw [putLine, emit, endOp_hist, List.append_assoc]
  rfl

/-- A line set to the record it holds leaves the line file (R148). -/
theorem lines_set_lineAt (s : State) (l : LineId) : s.lines.set l.toNat (lineAt s l) = s.lines := by
  obtain h | h := Nat.lt_or_ge l.toNat s.lines.length
  · rw [lineAt, List.getD_eq_getElem _ _ h, List.set_getElem_self]
  · exact List.set_eq_of_length_le h

/-- A `LINE_DIR` that ends normally is of a line the platform has (R140). -/
theorem exec_lineDir_hasLine {l : LineId} {d : Dir} {s t : State} (h : exec (.lineDir l d) s = .next t) :
    hasLine s l = true := by
  obtain ⟨-, hc, -⟩ := (perform_eq_next _ _ _ _).1 h
  simpa using hc _ List.mem_cons_self

/-- A `LINE_SET` that ends normally is of a line the platform has (R140). -/
theorem exec_lineSet_hasLine {l : LineId} {v : Level} {s t : State} (h : exec (.lineSet l v) s = .next t) :
    hasLine s l = true := by
  obtain ⟨-, hc, -⟩ := (perform_eq_next _ _ _ _).1 h
  simpa using hc _ List.mem_cons_self

/-! ## Reading a level -/

/-- A `LINE_GET` of a line the platform has ends normally, with the level observed (R143). -/
theorem exec_lineGet {l : LineId} {s : State} (hl : isLive s = true) (hline : hasLine s l = true) :
    exec (.lineGet l) s = .next
      (endOp (encode (.lineGet l)) (.bit (observeLevel l s).1) (observeLevel l s).2) :=
  perform_of_clear hl (by simp [hline]) _

theorem observeLevel_of_latch {l : LineId} {s : State} (h : drivesLatch s l = true) :
    observeLevel l s = ((lineAt s l).latch, s) :=
  if_pos h

theorem observeLevel_of_input {l : LineId} {s : State} {b : Level} {bs : List Level}
    (h : ¬ drivesLatch s l = true) (hin : s.levelInputs = b :: bs) :
    observeLevel l s = (b, { s with levelInputs := bs }) := by
  rw [observeLevel, if_neg h, drawLevel, hin]

theorem observeLevel_of_free {l : LineId} {s : State} (h : ¬ drivesLatch s l = true) (hin : s.levelInputs = []) :
    observeLevel l s = (Config.envLevel s.hist l, s) := by
  rw [observeLevel, if_neg h, drawLevel, hin]

/-- An operation that writes no `CTRL` leaves an undriven line undriven, so if the line is then an output its latch is
what a `LINE_GET` returns. -/
theorem exec_then_lineGet {i : Instr} {l : LineId} {s t : State} (h : exec i s = .next t) (hi : ∀ v, i ≠ .wrCtrl v)
    (hfree : ¬ ((l = s.params.sck ∨ l = s.params.mosi) ∧ isMaster s = true)) (hline : hasLine s l = true)
    (hout : (lineAt t l).dir = .out) :
    ∃ u, exec (.lineGet l) t = .next u ∧ u.result = .bit (lineAt t l).latch := by
  have platform := exec_keeps_platform h
  have line : hasLine t l = true := by
    rw [hasLine_iff, platform.lineCount]
    exact (hasLine_iff s l).1 hline
  have drives : drivesLatch t l = true := by
    rw [drivesLatch_iff, platform.params, isMaster, exec_keeps_ctrl h hi]
    exact ⟨hout, hfree⟩
  refine ⟨_, exec_lineGet (exec_next_live h) line, ?_⟩
  rw [observeLevel_of_latch drives]
  rfl

/-! ## A latch and an exchange -/

/-- The state with another latch in one line (10_state.md R60). -/
def withLatch (l : LineId) (b : Level) (s : State) : State :=
  { s with lines := s.lines.set l.toNat { dir := (lineAt s l).dir, latch := b } }

theorem lineDirAt_withLatch (l k : LineId) (b : Level) (s : State) :
    lineDirAt (withLatch l b s) k = lineDirAt s k := by
  have written : lineDirAt (withLatch l b s) k = lineDirAt (putLine l { lineAt s l with latch := b } s) k := rfl
  cases hline : hasLine s l with
  | true =>
    rw [written, lineDirAt]
    by_cases e : k = l
    · rw [e, lineAt_putLine_same hline, lineDirAt]
    · rw [lineAt_putLine_other s e, lineDirAt]
  | false =>
    have lines : (withLatch l b s).lines = s.lines := List.set_eq_of_length_le ((hasLine_eq_false_iff s l).1 hline)
    exact congrArg LineRec.dir (lineAt_congr lines k)

/-- Which stop an operation ends with, if any, does not depend on its effect. -/
theorem perform_effect {s s' : State} (hl : isLive s' = isLive s) (cs : List (Bool × Stop)) (t t' : State) :
    perform s' cs t' = andThen (perform s cs t) (fun _ => t') := by
  unfold perform
  rw [hl]
  split
  · exact firstStop_andThen (fun _ => t') t cs
  · rfl

/-- `WR_DATA` tests no latch (41_line_control.md R146): with another latch it stops as before, or has its effect on the
state with that latch. -/
theorem exec_wrData_withLatch (v : Byte) (l : LineId) (b : Level) (s : State) :
    exec (.wrData v) (withLatch l b s) = andThen (exec (.wrData v) s)
      fun _ => startExchange v (clearIfArmed (endOp (encode (.wrData v)) .none (withLatch l b s))) := by
  rw [exec, execWrData, lineDirAt_withLatch, lineDirAt_withLatch]
  exact perform_effect rfl _ _ _

end Sys2Proof.Machine
end

section
/-!
PROOF. The obligations on the lines (41_line_control.md), each from the lemmas above.
-/

namespace Sys2Proof.Machine

/-- Settles O18: each stop is the first condition that holds, and with none left the direction is written. -/
theorem lineDirSetsTheDirectionOrStopsInOrder : Obligations.LineDirSetsTheDirectionOrStopsInOrder := by
  intro l d s w hl hw
  rw [← encode_lineDir] at hw
  subst hw
  simp only [← isEngineLine_iff, ← hasLine_iff, ← hasLine_eq_false_iff]
  rw [exec, execLineDir]
  refine ⟨fun hline => ?_, fun hline hb hengine => ?_, fun hline hb hss hd hen hm => ?_,
    fun hline hidle hmaster => ?_⟩
  · rw [hline]
    exact perform_stop hl _ _ _
  · rw [hline, hb, hengine, Bool.not_true, perform_skip]
    exact perform_stop hl _ _ _
  · have loses : (l == s.params.ss && d == .inp && isMaster s) = true := by
      simp [hss, hd, (isMaster_iff s).2 ⟨hen, hm⟩]
    rw [hline, hb, loses, Bool.not_true, Bool.and_false, perform_skip, perform_skip]
    exact perform_stop hl _ _ _
  · have held : l = s.params.ss → d = .inp → isMaster s = false := fun hss hd => by
      rw [← Bool.not_eq_true, isMaster_iff, not_and_or, Bool.not_eq_true, Bool.not_eq_true]
      exact hmaster hss hd
    rw [perform_of_clear hl (by simpa [hline] using And.intro hidle held), putLine_endOp]

/-- Settles O19: each stop is the first condition that holds, and with none left the latch is written. -/
theorem lineSetSetsTheLatchOrStopsInOrder : Obligations.LineSetSetsTheLatchOrStopsInOrder := by
  intro l v s w hl hw
  rw [← encode_lineSet] at hw
  subst hw
  simp only [← isWireLine_iff, ← hasLine_iff, ← hasLine_eq_false_iff]
  rw [exec, execLineSet]
  refine ⟨fun hline => ?_, fun hline hb hwire => ?_, fun hline hidle => ?_⟩
  · rw [hline]
    exact perform_stop hl _ _ _
  · rw [hline, hb, hwire, Bool.not_true, perform_skip]
    exact perform_stop hl _ _ _
  · rw [perform_of_clear hl (by simpa [hline] using hidle), putLine_endOp]

/-- Settles O20: the level observed is the latch, the next input or the free value. -/
theorem lineGetReturnsTheLevelOrFaults : Obligations.LineGetReturnsTheLevelOrFaults := by
  intro l s w latched hl hw hlatched
  rw [← encode_lineGet] at hw
  subst hw
  rw [← isMaster_iff, ← drivesLatch_iff] at hlatched
  simp only [hlatched, ← hasLine_iff, ← hasLine_eq_false_iff]
  refine ⟨fun hline => ?_, fun hline h => ?_, fun b bs hline h hin => ?_, fun hline h hin => ?_⟩
  · rw [exec, execLineGet, hline]
    exact perform_stop hl _ _ _
  · rw [exec_lineGet hl hline, observeLevel_of_latch h]
    rfl
  · rw [exec_lineGet hl hline, observeLevel_of_input h hin]
    rfl
  · rw [exec_lineGet hl hline, observeLevel_of_free h hin]
    rfl

/-- Settles O21: neither line operation writes `CTRL`, and each leaves the line as it wrote it. -/
theorem levelFollowsTheLineAtOnce : Obligations.LevelFollowsTheLineAtOnce := by
  intro l s t hfree
  refine ⟨fun h => ?_, fun v hdir h => ?_⟩
  · have line : lineAt t l = { lineAt s l with dir := .out } := (exec_lineDir_lineAt h l).trans (if_pos rfl)
    simpa only [line] using exec_then_lineGet h (by simp) hfree (exec_lineDir_hasLine h) (by rw [line])
  · have line : lineAt t l = { lineAt s l with latch := v } := (exec_lineSet_lineAt h l).trans (if_pos rfl)
    simpa only [line] using exec_then_lineGet h (by simp) hfree (exec_lineSet_hasLine h) (by rw [line]; exact hdir)

/-- Settles O22: the record written is the one the line holds. -/
theorem repeatedLineSetChangesNoLine : Obligations.RepeatedLineSetChangesNoLine := by
  rintro l v s t rfl h
  obtain ⟨-, -, rfl⟩ := (perform_eq_next _ _ _ _).1 h
  rw [putLine_endOp, lines_set_lineAt]
  exact ⟨rfl, rfl⟩

/-- Settles O23: the stops are the same, and of the lines an exchange takes only its snapshot. -/
theorem exchangeIgnoresEveryLatch : Obligations.ExchangeIgnoresEveryLatch := by
  intro v l b s s' hs'
  have same := exec_wrData_withLatch v l b s
  obtain rfl : s' = withLatch l b s := hs'
  refine ⟨fun t h => ?_, fun f h => ?_⟩
  · obtain ⟨-, -, ht⟩ := (perform_eq_next _ _ _ _).1 h
    rw [h, andThen_next] at same
    refine ⟨_, same, ?_⟩
    rw [ht, clearIfArmed_endOp, clearIfArmed_endOp]
    simp [withLatch]
  · rw [same, h, andThen_fault]

end Sys2Proof.Machine
end

section
/-!
SUPPORT. The steps of the driver's sequences (42_driver_operations.md R160 to R170): the words that they compute, runs over
a part of the program, sequences of line operations, and `configure`, `begin`, `end` and `poll` from them.
-/

namespace Sys2Proof.Machine

/-! ## The configuration word -/

/-- The configuration word by its two fields, for all modes and dividers (42_driver_operations.md R163). -/
theorem ctrlWord_fields (m : BitVec 2) (d : BitVec 3) :
    (ctrlWord m d).toNat = 0x50 + m.toNat * 4 + d.toNat % 4 ∧
    ctrlCPOL (ctrlWord m d) = m.getLsbD 1 ∧ ctrlCPHA (ctrlWord m d) = m.getLsbD 0 ∧
    (ctrlRATE (ctrlWord m d)).toNat = d.toNat % 4 ∧
    ctrlEN (ctrlWord m d) = true ∧ ctrlMSTR (ctrlWord m d) = true ∧
    ctrlIE (ctrlWord m d) = false ∧ ctrlORD (ctrlWord m d) = false := by
  revert m d; decide

theorem maskMode_getLsbD (mode : Nat) {k : Nat} (hk : k < 2) : (maskMode mode).getLsbD k = mode.testBit k := by
  rw [maskMode, BitVec.getLsbD_ofNat, decide_eq_true hk, Bool.true_and]

theorem maskDiv_getLsbD (div : Nat) {k : Nat} (hk : k < 3) : (maskDiv div).getLsbD k = div.testBit k := by
  rw [maskDiv, BitVec.getLsbD_ofNat, decide_eq_true hk, Bool.true_and]

theorem maskDiv_toNat_mod (div : Nat) : (maskDiv div).toNat % 4 = div % 4 := by
  rw [maskDiv, BitVec.toNat_ofNat, Nat.mod_mod_of_dvd _ (by decide)]

theorem ctrlWord_toNat (mode div : Nat) :
    (ctrlWord (maskMode mode) (maskDiv div)).toNat = 0x50 + (mode % 4) * 4 + div % 4 := by
  obtain ⟨word, -⟩ := ctrlWord_fields (maskMode mode) (maskDiv div)
  rw [word, maskDiv_toNat_mod, maskMode, BitVec.toNat_ofNat]

/-! ## The bytes of a word -/

theorem wordByte_toNat (v : HostInt) (k : Nat) : (wordByte v k).toNat = v.toNat / 2 ^ (8 * k) % 2 ^ 8 := by
  have masked : ((v >>> (8 * k)) &&& 0xFF#32).toNat = (v >>> (8 * k)).toNat % 2 ^ 8 :=
    Nat.and_two_pow_sub_one_eq_mod _ 8
  rw [wordByte, truncByte, BitVec.toNat_setWidth, masked, Nat.mod_mod, BitVec.toNat_ushiftRight,
    Nat.shiftRight_eq_div_pow]

theorem wordByte_eq_extractLsb' (v : HostInt) (k : Nat) : wordByte v k = v.extractLsb' (8 * k) 8 := by
  refine BitVec.eq_of_toNat_eq ?_
  rw [wordByte_toNat, BitVec.extractLsb'_toNat, Nat.shiftRight_eq_div_pow]

/-- Three bytes shifted to their places do not overlap, so joining them adds them (42_driver_operations.md R174). -/
theorem join_toNat (b2 b1 b0 : Byte) :
    (b2.setWidth 32 <<< 16 ||| b1.setWidth 32 <<< 8 ||| b0.setWidth 32 : HostInt).toNat =
      b2.toNat * 2 ^ 16 + b1.toNat * 2 ^ 8 + b0.toNat := by
  have h2 := b2.isLt
  have h1 := b1.isLt
  have h0 := b0.isLt
  have place2 : (b2.setWidth 32 <<< 16 : HostInt).toNat = 2 ^ 16 * b2.toNat := by
    rw [BitVec.toNat_shiftLeft, BitVec.toNat_setWidth, Nat.shiftLeft_eq]
    omega
  have place1 : (b1.setWidth 32 <<< 8 : HostInt).toNat = 2 ^ 8 * b1.toNat := by
    rw [BitVec.toNat_shiftLeft, BitVec.toNat_setWidth, Nat.shiftLeft_eq]
    omega
  have place0 : (b0.setWidth 32 : HostInt).toNat = b0.toNat := by
    rw [BitVec.toNat_setWidth]
    omega
  have high := Nat.two_pow_add_eq_or_of_lt (i := 16) (b := 2 ^ 8 * b1.toNat) (by omega) b2.toNat
  have low := Nat.two_pow_add_eq_or_of_lt h0 (2 ^ 8 * b2.toNat + b1.toNat)
  have regroup : 2 ^ 8 * (2 ^ 8 * b2.toNat + b1.toNat) = 2 ^ 16 * b2.toNat + 2 ^ 8 * b1.toNat := by omega
  rw [BitVec.toNat_or, BitVec.toNat_or, place2, place1, place0, ← high, ← regroup, ← low]
  omega

/-- The reassembly of the three received bytes (R171). -/
theorem evalExpr_joinExpr {s : State} {b2 b1 b0 : Byte} (h2 : getVar varR2 s = b2.setWidth 32)
    (h1 : getVar varR1 s = b1.setWidth 32) (h0 : getVar varR0 s = b0.setWidth 32) :
    (evalExpr s joinExpr).toNat = b2.toNat * 2 ^ 16 + b1.toNat * 2 ^ 8 + b0.toNat := by
  simp only [joinExpr, evalExpr, h2, h1, h0]
  exact join_toNat b2 b1 b0

/-- A value that is the sum of the three low bytes of `v` is the low 24 bits of `v` (R174). -/
theorem eq_low24_of_wordBytes {u v : HostInt}
    (h : u.toNat = (wordByte v 2).toNat * 2 ^ 16 + (wordByte v 1).toNat * 2 ^ 8 + (wordByte v 0).toNat) :
    u = v &&& 0xFFFFFF#32 := by
  have low : (v &&& 0xFFFFFF#32).toNat = v.toNat % 2 ^ 24 := Nat.and_two_pow_sub_one_eq_mod _ 24
  simp only [wordByte_toNat] at h
  refine BitVec.eq_of_toNat_eq ?_
  omega

/-! ## Assertions of a line -/

theorem bracketed_append (cs : LineId) (h es : List Event) :
    bracketed cs (h ++ es) = (bracketed cs h && bracketed cs es) :=
  List.all_append

/-- While a line is asserted, what an operation appends is bracketed: a `Start` event's snapshot is of the lines before
the operation (42_driver_operations.md R176). -/
theorem bracketed_exec_events {cs : LineId} {s : State} (h : lineAt s cs = { dir := .out, latch := .low }) (i : Instr)
    (r : OpResult) : bracketed cs (.op (encode i) r :: laterEvents i s) = true := by
  cases i with
  | wrData v => exact Bool.and_eq_true_iff.2 ⟨beq_iff_eq.2 h, rfl⟩
  | _ => rfl


/-! ## Steps of a sequence -/

/-- The host is to move, with no exchange in progress and `steps` left of its program. -/
structure IdleAt (s : State) (steps : List HostStep) : Prop where
  live : isLive s = true
  idle : s.busy = false
  todo : s.prog.drop s.hpc = steps

/-- A run of `n` steps leads from `s` to `t`, over `d` steps of the host program; it leaves no exchange in progress, and
`rest` of the program. -/
structure RunsTo (n d : Nat) (s t : State) (rest : List HostStep) : Prop where
  run : Host.Core.run core n s = .next t
  idleAt : IdleAt t rest
  params : t.params = s.params
  count : t.lines.length = s.lines.length
  hpc : t.hpc = s.hpc + d

theorem RunsTo.refl {s : State} {rest : List HostStep} (h : IdleAt s rest) : RunsTo 0 0 s s rest :=
  ⟨rfl, h, rfl, rfl, rfl⟩

theorem RunsTo.trans {n m d e : Nat} {s t u : State} {steps rest : List HostStep} (h : RunsTo n d s t steps)
    (k : RunsTo m e t u rest) : RunsTo (n + m) (d + e) s u rest where
  run := (run_add h.run m).trans k.run
  idleAt := k.idleAt
  params := k.params.trans h.params
  count := k.count.trans h.count
  hpc := by rw [k.hpc, h.hpc, Nat.add_assoc]

theorem step_next_live {s t : State} (h : step s = .next t) : isLive t = true := by
  obtain ⟨hl, ⟨-, b, ht⟩ | ⟨i, s0, u, -, hu, ht⟩ | ht⟩ := step_block h
  · exact ht.isLive.trans hl
  · exact ht.isLive.trans (exec_next_live hu)
  · exact ht.isLive.trans hl

/-- A run that begins with a fault is that fault. -/
theorem run_succ_of_fault {s : State} {f : Fault} (h : step s = .fault f) (k : Nat) :
    Host.Core.run core (k + 1) s = .fault f := by
  have h' : Host.Core.step core s = .fault f := h
  simp only [Host.Core.run, h']

/-- A step over one step of the program, if it leaves no exchange in progress. -/
theorem IdleAt.runsTo_of_step {s t : State} {g : HostStep} {rest : List HostStep} (h : IdleAt s (g :: rest))
    (hs : step s = .next t) (hb : t.busy = false) (hpc : t.hpc = s.hpc + 1) : RunsTo 1 1 s t rest := by
  have kept := step_keeps_platform hs
  refine ⟨run_succ_of_next hs 0, ⟨step_next_live hs, hb, ?_⟩, kept.params, kept.lineCount, hpc⟩
  rw [kept.prog, hpc]
  exact drop_advance h.todo

@[simp] theorem bindResult_hpc (dst : Option Var) (s : State) : (bindResult dst s).hpc = s.hpc := by
  unfold bindResult
  split <;> rfl

/-- The host's turn at an assembler line is the operation that the line spells (30_encoding.md R100). -/
theorem hostTurn_assemble {s : State} {dst : Option Var} {p : Params} {cs : LineId} {a : AsmOp} {rest : List HostStep}
    (h : s.prog.drop s.hpc = .op dst (assemble p cs a) :: rest) :
    hostTurn s = andThen (exec (asmInstr p cs a) s) (fun t => advance (bindResult dst t)) := by
  refine hostTurn_of_decode (fetch_of_drop h) ?_
  rw [assemblerSumsAreTheWords, decode_encode]

theorem IdleAt.step_assemble {s : State} {dst : Option Var} {p : Params} {cs : LineId} {a : AsmOp}
    {rest : List HostStep} (h : IdleAt s (.op dst (assemble p cs a) :: rest)) :
    step s = andThen (exec (asmInstr p cs a) s) (fun t => advance (bindResult dst t)) :=
  (step_of_idle h.live h.idle).trans (hostTurn_assemble h.todo)

/-- An assembler line whose operation ends normally, no exchange in progress: the block is as the operation left it. -/
theorem IdleAt.runsTo_assemble {s u : State} {dst : Option Var} {p : Params} {cs : LineId} {a : AsmOp}
    {rest : List HostStep} (h : IdleAt s (.op dst (assemble p cs a) :: rest))
    (hx : exec (asmInstr p cs a) s = .next u) (hb : u.busy = false) :
    RunsTo 1 1 s (advance (bindResult dst u)) rest ∧ SameBlock u (advance (bindResult dst u)) := by
  have block : SameBlock u (advance (bindResult dst u)) :=
    ((hostOnly_bindResult dst u).trans (hostOnly_advance _)).sameBlock
  refine ⟨h.runsTo_of_step ?_ (block.busy.trans hb) ?_, block⟩
  · rw [h.step_assemble, hx, andThen_next]
  · rw [advance_hpc, bindResult_hpc, (exec_keeps_host hx).hpc]

/-! ## A sequence of line operations -/

/-- A line operation that never stops with no exchange in progress, among `n` lines: a direction set to output, or a
latch (41_line_control.md R141, R142). -/
inductive LineWrite (n : Nat) : Instr → Prop where
  | dir {l : LineId} (h : l.toNat < n) : LineWrite n (.lineDir l .out)
  | latch {l : LineId} (h : l.toNat < n) (v : Level) : LineWrite n (.lineSet l v)

/-- What a line operation makes of the lines. -/
def lineWrite (f : LineId → LineRec) : Instr → LineId → LineRec
  | .lineDir l d => Function.update f l { f l with dir := d }
  | .lineSet l v => Function.update f l { f l with latch := v }
  | _ => f

theorem exec_lineWrite {i : Instr} {s : State} (hl : isLive s = true) (hb : s.busy = false)
    (hi : LineWrite s.lines.length i) :
    ∃ t, exec i s = .next t ∧ viewOf t = { viewOf s with lines := t.lines } ∧
      lineAt t = lineWrite (lineAt s) i := by
  cases hi with
  | @dir l h =>
    have line := (hasLine_iff s l).2 h
    have runs : exec (.lineDir l .out) s = .next _ := perform_of_clear hl (by simp [line, hb]) _
    refine ⟨_, runs, rfl, funext fun k => ?_⟩
    rw [exec_lineDir_lineAt runs, lineWrite, Function.update_apply]
  | @latch l h v =>
    have line := (hasLine_iff s l).2 h
    have runs : exec (.lineSet l v) s = .next _ := perform_of_clear hl (by simp [line, hb]) _
    refine ⟨_, runs, rfl, funext fun k => ?_⟩
    rw [exec_lineSet_lineAt runs, lineWrite, Function.update_apply]

/-- A step of a sequence that is such a line operation. -/
theorem IdleAt.runsTo_lineWrite {s : State} {p : Params} {cs : LineId} {a : AsmOp} {rest : List HostStep}
    (h : IdleAt s (asmStep p cs a :: rest)) (ha : LineWrite s.lines.length (asmInstr p cs a)) :
    ∃ t, RunsTo 1 1 s t rest ∧ viewOf t = { viewOf s with lines := t.lines } ∧
      lineAt t = lineWrite (lineAt s) (asmInstr p cs a) := by
  obtain ⟨u, hx, view, lines⟩ := exec_lineWrite h.live h.idle ha
  have hb : u.busy = false := (congrArg BlockView.busy view).trans h.idle
  obtain ⟨runs, -⟩ := h.runsTo_assemble hx hb
  exact ⟨_, runs, view, lines⟩

/-- A sequence of such line operations runs to its end, and makes of the lines what its operations make, in order. -/
theorem IdleAt.runsTo_lineWrites {s : State} {p : Params} {cs : LineId} {as : List AsmOp} {rest : List HostStep}
    (h : IdleAt s (as.map (asmStep p cs) ++ rest)) (has : ∀ a ∈ as, LineWrite s.lines.length (asmInstr p cs a)) :
    ∃ t, RunsTo as.length as.length s t rest ∧ viewOf t = { viewOf s with lines := t.lines } ∧
      lineAt t = (as.map (asmInstr p cs)).foldl lineWrite (lineAt s) := by
  induction as generalizing s with
  | nil => exact ⟨s, .refl h, rfl, rfl⟩
  | cons a as ih =>
    obtain ⟨ha, has⟩ := List.forall_mem_cons.1 has
    obtain ⟨t, runs, view, lines⟩ := h.runsTo_lineWrite ha
    obtain ⟨u, runs', view', lines'⟩ := ih runs.idleAt (by rwa [runs.count])
    refine ⟨u, ?_, ?_, ?_⟩
    · rw [List.length_cons, Nat.add_comm]
      exact runs.trans runs'
    · rw [view', view]
    · rw [lines', lines]
      rfl

/-! ## configure -/

/-- The lines that R8 admits: the engine lines are below `LINE_COUNT`, which is at most 256. -/
theorem lines_of_wf {p : Params} {n : Nat} (h : p.wf n = true) :
    n ≤ 256 ∧ p.sck.toNat < n ∧ p.mosi.toNat < n ∧ p.ss.toNat < n := by
  simp only [Params.wf, lineCountOk, Params.linesBelow, Bool.and_eq_true, decide_eq_true_eq] at h
  obtain ⟨⟨-, -, count⟩, ⟨⟨sck, mosi⟩, -⟩, ss⟩ := h
  exact ⟨count, sck, mosi, ss⟩

/-- The line operations of `configure`, in its order (42_driver_operations.md R162). -/
def configureLineOps : List AsmOp :=
  [.dir .cs .out, .set .cs .high, .dir .sck .out, .dir .mosi .out, .dir .ss .out]

/-- The register steps of `configure`, in its order (R162). -/
def configureRegisterSteps (p : Params) (cs : LineId) (mode div : Nat) : List HostStep :=
  [ asmStep p cs (.wrCtrl (ctrlWord (maskMode mode) (maskDiv div))), .op (some varS) (assemble p cs .rdStatus),
    .wr .status (dblExpr (maskDiv div)) ]

theorem configureSteps_eq (p : Params) (cs : LineId) (mode div : Nat) :
    configureSteps p cs mode div =
      configureLineOps.map (asmStep p cs) ++ configureRegisterSteps p cs mode div := rfl

/-- A line after `configure` (R162, R179). -/
def configuredLine (s : State) (cs l : LineId) : LineRec :=
  if l = cs then { dir := .out, latch := .high }
  else if l = s.params.sck ∨ l = s.params.mosi ∨ l = s.params.ss then { dir := .out, latch := (lineAt s l).latch }
  else lineAt s l

theorem foldl_lineWrite_configure (s : State) (cs : LineId) :
    (configureLineOps.map (asmInstr s.params cs)).foldl lineWrite (lineAt s) = configuredLine s cs := by
  funext l
  simp only [configureLineOps, List.map, List.foldl, lineWrite, asmInstr, lineIdOf, Function.update_apply,
    configuredLine]
  grind

theorem configureLineOps_lineWrite {s : State} {cs : LineId} (hwf : s.params.wf s.lines.length = true)
    (hcs : cs.toNat < s.lines.length) :
    ∀ a ∈ configureLineOps, LineWrite s.lines.length (asmInstr s.params cs a) := by
  obtain ⟨-, sck, mosi, ss⟩ := lines_of_wf hwf
  simp only [configureLineOps, List.forall_mem_cons, List.not_mem_nil, false_imp_iff, implies_true, and_true]
  exact ⟨.dir hcs, .latch hcs _, .dir sck, .dir mosi, .dir ss⟩

theorem configuredLine_ss_dir (s : State) (cs : LineId) : (configuredLine s cs s.params.ss).dir = .out := by
  unfold configuredLine
  split
  · rfl
  · simp

/-- The update computes a byte whose bit 0 is the divider's double-speed bit, whatever status was read (R164). -/
theorem dblExpr_bit0 (s : State) (d : BitVec 3) : (truncByte (evalExpr s (dblExpr d))).getLsbD 0 = d.getLsbD 2 := by
  unfold dblExpr
  cases d.getLsbD 2 <;> simp [evalExpr, truncByte]

/-- The configuration word ends normally where the third control-role line is an output (40_register_access.md R111). -/
theorem IdleAt.runsTo_wrCtrl {s : State} {p : Params} {cs : LineId} {m : BitVec 2} {d : BitVec 3} {rest : List HostStep}
    (h : IdleAt s (asmStep p cs (.wrCtrl (ctrlWord m d)) :: rest)) (hss : lineDirAt s s.params.ss = .out) :
    ∃ t, RunsTo 1 1 s t rest ∧ viewOf t = { viewOf s with ctrl := ctrlWord m d } := by
  obtain ⟨-, -, -, -, -, -, hie, hord⟩ := ctrlWord_fields m d
  have hx : exec (.wrCtrl (ctrlWord m d)) s = .next _ :=
    perform_of_clear h.live (by simp [hie, hord, h.idle, hss]) _
  obtain ⟨runs, -⟩ := h.runsTo_assemble hx h.idle
  exact ⟨_, runs, rfl⟩

theorem IdleAt.runsTo_rdStatus {s : State} {x : Var} {p : Params} {cs : LineId} {rest : List HostStep}
    (h : IdleAt s (.op (some x) (assemble p cs .rdStatus) :: rest)) :
    ∃ t, RunsTo 1 1 s t rest ∧ viewOf t = { viewOf s with armed := s.armed || statusTC s.status } := by
  obtain ⟨runs, block⟩ := h.runsTo_assemble (exec_rdStatus h.live) h.idle
  exact ⟨_, runs, block.view⟩

/-- A computed status write outside an exchange writes `DBL` (40_register_access.md R113). -/
theorem IdleAt.runsTo_wrStatus {s : State} {e : Expr} {rest : List HostStep} (h : IdleAt s (.wr .status e :: rest)) :
    ∃ t, RunsTo 1 1 s t rest ∧
      viewOf t = { viewOf s with status := statusPutDBL ((truncByte (evalExpr s e)).getLsbD 0) s.status } := by
  have hx : exec (.wrStatus (truncByte (evalExpr s e))) s = .next _ :=
    perform_of_clear h.live (by simpa using h.idle) _
  have hs : step s = andThen (exec (.wrStatus (truncByte (evalExpr s e))) s) advance :=
    (step_of_idle h.live h.idle).trans (hostTurn_of_fetch (fetch_of_drop h.todo))
  rw [hx, andThen_next] at hs
  exact ⟨_, h.runsTo_of_step hs h.idle rfl, rfl⟩

/-- The block after the register steps of `configure` (R162 to R164). -/
def registersConfigured (mode div : Nat) (b : BlockView) : BlockView :=
  { b with
    ctrl := ctrlWord (maskMode mode) (maskDiv div)
    status := statusPutDBL (div.testBit 2) b.status
    armed := b.armed || statusTC b.status }

theorem IdleAt.runsTo_configureRegisters {s : State} {p : Params} {cs : LineId} {mode div : Nat} {rest : List HostStep}
    (h : IdleAt s (configureRegisterSteps p cs mode div ++ rest)) (hss : lineDirAt s s.params.ss = .out) :
    ∃ t, RunsTo 3 3 s t rest ∧ viewOf t = registersConfigured mode div (viewOf s) := by
  obtain ⟨s1, runs1, view1⟩ := h.runsTo_wrCtrl hss
  obtain ⟨s2, runs2, view2⟩ := runs1.idleAt.runsTo_rdStatus
  obtain ⟨s3, runs3, view3⟩ := runs2.idleAt.runsTo_wrStatus
  refine ⟨s3, (runs1.trans runs2).trans runs3, ?_⟩
  have status1 : s1.status = s.status := congrArg BlockView.status view1
  have armed1 : s1.armed = s.armed := congrArg BlockView.armed view1
  have status2 : s2.status = s.status := (congrArg BlockView.status view2).trans status1
  rw [view3, view2, view1, dblExpr_bit0, maskDiv_getLsbD div (by decide), status2, status1, armed1]
  rfl

/-- What `configure` leaves (R162, R179). -/
theorem IdleAt.runsTo_configure {s : State} {cs : LineId} {mode div : Nat} {rest : List HostStep}
    (h : IdleAt s (configureSteps s.params cs mode div ++ rest)) (hwf : s.params.wf s.lines.length = true)
    (hcs : cs.toNat < s.lines.length) :
    ∃ t, RunsTo 8 8 s t rest ∧ viewOf t = registersConfigured mode div { viewOf s with lines := t.lines } ∧
      lineAt t = configuredLine s cs := by
  rw [configureSteps_eq, List.append_assoc] at h
  obtain ⟨t, runs, view, lines⟩ := h.runsTo_lineWrites (configureLineOps_lineWrite hwf hcs)
  rw [foldl_lineWrite_configure] at lines
  have hss : lineDirAt t t.params.ss = .out := by
    rw [lineDirAt, lines, runs.params, configuredLine_ss_dir]
  obtain ⟨u, runs', view'⟩ := runs.idleAt.runsTo_configureRegisters hss
  have kept : u.lines = t.lines := congrArg BlockView.lines view'
  refine ⟨u, runs.trans runs', ?_, ?_⟩
  · rw [view', view, kept]
  · rw [← lines]
    exact funext (lineAt_congr kept)

/-- Two line files of one length that R8 admits, with the same record for every line id, are the same. -/
theorem lines_ext {s t : State} (hn : s.lines.length ≤ 256) (hlen : t.lines.length = s.lines.length)
    (h : ∀ l, lineAt t l = lineAt s l) : t.lines = s.lines := by
  refine List.ext_getElem hlen fun k ht hs => ?_
  have id : (BitVec.ofNat 8 k).toNat = k := by
    rw [BitVec.toNat_ofNat]
    omega
  have eq := h (BitVec.ofNat 8 k)
  rwa [lineAt, lineAt, id, List.getD_eq_getElem _ _ ht, List.getD_eq_getElem _ _ hs] at eq

/-- Lines configured are as `configure` leaves them. -/
theorem configuredLine_idem {s t : State} {cs : LineId} (hp : t.params = s.params)
    (h : lineAt t = configuredLine s cs) :
    configuredLine t cs = configuredLine s cs := by
  funext l
  simp only [configuredLine, hp, h]
  grind

theorem statusPutDBL_idem (b : Bool) (st : Byte) : statusPutDBL b (statusPutDBL b st) = statusPutDBL b st := by
  revert st b; decide

/-- Configuring registers already configured leaves them, but for `ARMED` (R166). -/
theorem registersConfigured_idem (mode div : Nat) {b c : BlockView} (h : b = registersConfigured mode div c) :
    registersConfigured mode div b = { b with armed := b.armed || statusTC b.status } := by
  subst h
  simp only [registersConfigured, statusPutDBL_idem]

/-! ## configure during an exchange -/

/-- An exchange is in progress, `steps` are left of the host's program, and the host is the next to move `k` times. -/
structure BusyAt (k : Nat) (s : State) (steps : List HostStep) : Prop where
  live : isLive s = true
  busy : s.busy = true
  todo : s.prog.drop s.hpc = steps
  coming : comingTurns k s = List.replicate k .host

/-- During an exchange, when the host is the next to move, an assembler line is its operation after the draw. -/
theorem BusyAt.step_assemble {k : Nat} {s : State} {p : Params} {cs : LineId} {a : AsmOp} {rest : List HostStep}
    (h : BusyAt (k + 1) s (asmStep p cs a :: rest)) :
    step s = andThen (exec (asmInstr p cs a) (drawTurn s).2) advance := by
  have host : (drawTurn s).1 = .host := (List.cons.inj h.coming).1
  rw [step_of_host_drawn h.live h.busy (Prod.ext host rfl)]
  exact hostTurn_assemble (dst := none) (by rw [drawTurn_prog, drawTurn_hpc]; exact h.todo)

/-- The exchange outlives an operation, and the host comes to its next step. -/
theorem BusyAt.after {k : Nat} {s u : State} {p : Params} {cs : LineId} {a : AsmOp} {rest : List HostStep}
    (h : BusyAt (k + 1) s (asmStep p cs a :: rest)) (hx : exec (asmInstr p cs a) (drawTurn s).2 = .next u) :
    step s = .next (advance u) ∧ BusyAt k (advance u) rest ∧ PlatformKept s (advance u) := by
  have hs : step s = .next (advance u) := by rw [h.step_assemble, hx, andThen_next]
  have host := exec_keeps_host hx
  have kept := step_keeps_platform hs
  have busy : u.busy = true := exec_keeps_busy hx (by rw [drawTurn_busy]; exact h.busy)
  refine ⟨hs, ⟨step_next_live hs, busy, ?_, ?_⟩, kept⟩
  · rw [kept.prog, advance_hpc, host.hpc, drawTurn_hpc]
    exact drop_advance h.todo
  · rw [comingTurns_congr k (s := (drawTurn s).2) (t := advance u) host.turns host.draws]
    exact (List.cons.inj h.coming).2

/-- A line of the platform that is no engine line can be driven, also during an exchange (41_line_control.md R141,
R142). -/
theorem exec_driveLine {l : LineId} {s t : State} (kept : PlatformKept s t) (hl : isLive t = true)
    (hline : hasLine s l = true) (he : isEngineLine s l = false) (v : Level) :
    (∃ u, exec (.lineDir l .out) t = .next u) ∧ ∃ u, exec (.lineSet l v) t = .next u := by
  have line : hasLine t l = true := (hasLine_iff t l).2 (kept.lineCount ▸ (hasLine_iff s l).1 hline)
  have engine : isEngineLine t l = false := by rw [isEngineLine, isWireLine, kept.params]; exact he
  have wire : isWireLine t l = false := (Bool.or_eq_false_iff.1 engine).1
  exact ⟨⟨_, perform_of_clear hl (by simp [line, engine]) _⟩, ⟨_, perform_of_clear hl (by simp [line, wire]) _⟩⟩

/-- The word of a direction set to output, as the sum of 30_encoding.md R100. -/
theorem lineDir_out_word (l : LineId) :
    0x7001#16 + (l.setWidth 16 <<< 4) =
      0x7000#16 + (l.setWidth 16 <<< 4) + (if Dir.out = .out then 1#16 else 0#16) := by
  rw [if_pos rfl]
  bv_omega

/-- During an exchange `configure` drives its own line, and faults at the clock line (42_driver_operations.md R162). -/
theorem BusyAt.run_configure {s : State} {cs : LineId} {mode div : Nat} {rest : List HostStep}
    (h : BusyAt 3 s (configureSteps s.params cs mode div ++ rest)) (hsck : s.params.sck.toNat < s.lines.length)
    (hcs : hasLine s cs = true) (he : isEngineLine s cs = false) :
    Host.Core.run core 3 s = .fault (.lineConflictWhileBusy (0x7001#16 + (s.params.sck.setWidth 16 <<< 4))) := by
  have drawn := drawTurn_keeps_platform s
  obtain ⟨⟨u1, hu1⟩, -⟩ := exec_driveLine drawn ((isLive_drawTurn s).trans h.live) hcs he .high
  obtain ⟨hs1, h1, kept1⟩ := h.after hu1
  have drawn1 := kept1.trans (drawTurn_keeps_platform _)
  obtain ⟨-, u2, hu2⟩ := exec_driveLine drawn1 ((isLive_drawTurn _).trans h1.live) hcs he .high
  obtain ⟨hs2, h2, kept2⟩ := h1.after hu2
  have drawn2 := (kept1.trans kept2).trans (drawTurn_keeps_platform _)
  obtain ⟨-, conflict, -⟩ := lineDirSetsTheDirectionOrStopsInOrder s.params.sck .out (drawTurn (advance u2)).2 _
    ((isLive_drawTurn _).trans h2.live) (lineDir_out_word s.params.sck)
  have hs3 := h2.step_assemble
  rw [asmInstr, lineIdOf, conflict (drawn2.lineCount ▸ hsck) ((drawTurn_busy _).trans h2.busy)
    (.inl (congrArg Params.sck drawn2.params.symm)), andThen_fault] at hs3
  rw [run_succ_of_next hs1, run_succ_of_next hs2]
  exact run_succ_of_fault hs3 0

/-! ## begin and end -/

/-- A line that drives its latch is read at its latch (41_line_control.md R143). -/
theorem exec_lineGet_of_latch {l : LineId} {s : State} (hl : isLive s = true) (hline : hasLine s l = true)
    (hd : drivesLatch s l = true) : ∃ u, exec (.lineGet l) s = .next u ∧ u.result = .bit (lineAt s l).latch := by
  refine ⟨_, exec_lineGet hl hline, ?_⟩
  rw [observeLevel_of_latch hd]
  rfl

/-- `begin` and `end` write the latch of their line (42_driver_operations.md R167, R168). -/
theorem IdleAt.runsTo_lineSet {s : State} {p : Params} {cs : LineId} {v : Level} {rest : List HostStep}
    (h : IdleAt s (asmStep p cs (.set .cs v) :: rest)) (hcs : cs.toNat < s.lines.length) :
    ∃ t, RunsTo 1 1 s t rest ∧ t.ctrl = s.ctrl ∧
      ∀ k, lineAt t k = if k = cs then { lineAt s cs with latch := v } else lineAt s k := by
  obtain ⟨t, runs, view, lines⟩ := h.runsTo_lineWrite (.latch hcs v)
  refine ⟨t, runs, congrArg BlockView.ctrl view, fun k => ?_⟩
  rw [lines]
  exact Function.update_apply ..

/-! ## poll -/

/-- An iteration of `poll` is a status read, and advances if the flag is set (42_driver_operations.md R170). -/
theorem runHostStep_poll {s : State} (hl : isLive s = true) :
    runHostStep .poll s = .next (if statusTC s.status then advance (statusReadState s) else statusReadState s) := by
  rw [runHostStep, exec_rdStatus hl, andThen_next, pollNext_of_byte rfl, statusRead_bit7]

end Sys2Proof.Machine
end

section
/-!
SUPPORT. The byte exchange and the 24-bit transfer (42_driver_operations.md R169 to R174): the schedule in parts, the
bytes of a history, the state that an exchange leaves, and three exchanges in a row.
-/

namespace Sys2Proof.Machine

/-! ## The schedule -/

/-- The state with the schedule `k` turns further on (00_scope.md R10, log 6). -/
def afterTurns (k : Nat) (s : State) : State :=
  { s with turns := s.turns.drop k, draws := s.draws + (k - s.turns.length) }

theorem afterTurns_zero (s : State) : afterTurns 0 s = s := by
  simp [afterTurns]

theorem drawTurn_eq_afterTurns (s : State) : (drawTurn s).2 = afterTurns 1 s :=
  drawTurn_snd s

theorem afterTurns_afterTurns (j k : Nat) (s : State) : afterTurns k (afterTurns j s) = afterTurns (j + k) s := by
  have draws : s.draws + (j - s.turns.length) + (k - (s.turns.length - j)) = s.draws + (j + k - s.turns.length) := by
    omega
  simp only [afterTurns, List.drop_drop, List.length_drop, draws]

theorem comingTurns_add (j k : Nat) (s : State) :
    comingTurns (j + k) s = comingTurns j s ++ comingTurns k (afterTurns j s) := by
  induction j generalizing s with
  | zero => rw [Nat.zero_add, afterTurns_zero, comingTurns, List.nil_append]
  | succ j ih =>
    rw [Nat.succ_add, comingTurns_succ, ih, drawTurn_eq_afterTurns, afterTurns_afterTurns, Nat.add_comm 1 j,
      comingTurns_succ, drawTurn_eq_afterTurns]
    rfl

theorem comingTurns_length (k : Nat) (s : State) : (comingTurns k s).length = k := by
  induction k generalizing s with
  | zero => rfl
  | succ k ih => rw [comingTurns_succ, List.length_cons, ih]

/-- The coming turns in two parts. -/
theorem comingTurns_split {j k : Nat} {s : State} {l m : List Agent} (h : comingTurns (j + k) s = l ++ m)
    (hl : l.length = j) : comingTurns j s = l ∧ comingTurns k (afterTurns j s) = m := by
  rw [comingTurns_add] at h
  exact List.append_inj h ((comingTurns_length j s).trans hl.symm)

/-- The turns of an exchange that `k` host steps find unfinished. -/
def exchangeTurns (k : Nat) : List Agent := List.replicate k Agent.host ++ [Agent.engine]

@[simp] theorem exchangeTurns_length (k : Nat) : (exchangeTurns k).length = k + 1 := by
  rw [exchangeTurns, List.length_append, List.length_replicate, List.length_singleton]

/-! ## The bytes of a history -/

theorem startBytes_append (h es : List Event) : startBytes (h ++ es) = startBytes h ++ startBytes es := by
  induction h with
  | nil => rfl
  | cons e h ih => cases e <;> simp [startBytes, ih]

theorem doneBytes_append (h es : List Event) : doneBytes (h ++ es) = doneBytes h ++ doneBytes es := by
  induction h with
  | nil => rfl
  | cons e h ih => cases e <;> simp [doneBytes, ih]

theorem startBytes_replicate_op (k : Nat) (w : OpWord) (r : OpResult) :
    startBytes (List.replicate k (.op w r)) = [] := by
  induction k with
  | zero => rfl
  | succ k ih => exact ih

theorem doneBytes_replicate_op (k : Nat) (w : OpWord) (r : OpResult) :
    doneBytes (List.replicate k (.op w r)) = [] := by
  induction k with
  | zero => rfl
  | succ k ih => exact ih

/-! ## The byte exchange -/

/-- The event of a status read of a state. -/
def statusReadEvent (s : State) : Event := .op (encode .rdStatus) (.byte (statusRead s.status))

/-- The state after `k` status reads of a poll that find the exchange unfinished: the history grows by them, and the
schedule is `k` turns further on. -/
def polledState (k : Nat) (s : State) : State :=
  { afterTurns k s with
    hist := s.hist ++ List.replicate k (statusReadEvent s)
    result := if k = 0 then s.result else .byte (statusRead s.status) }

theorem polledState_zero (s : State) : polledState 0 s = s := by
  simp [polledState, afterTurns]

theorem polledState_succ {s : State} (h : statusTC s.status = false) (k : Nat) :
    polledState k (statusReadState (drawTurn s).2) = polledState (k + 1) s := by
  have read : statusReadState (afterTurns 1 s) = { afterTurns 1 s with
      hist := s.hist ++ [statusReadEvent s]
      result := .byte (statusRead s.status) } := by
    simp [statusReadState, statusReadEvent, endOp, emit, afterTurns, h]
  rw [drawTurn_eq_afterTurns, read]
  simp only [polledState, afterTurns, statusReadEvent, List.replicate_succ, List.append_assoc, List.singleton_append,
    List.drop_drop, List.length_drop, State.mk.injEq, true_and, ite_self, Nat.add_comm 1 k, Nat.succ_ne_zero, if_false]
  omega

theorem Polling.run_polledState {k : Nat} {s : State} (h : Polling s)
    (hk : comingTurns k s = List.replicate k .host) :
    Host.Core.run core k s = .next (polledState k s) ∧ Polling (polledState k s) := by
  induction k generalizing s with
  | zero => rw [polledState_zero]; exact ⟨rfl, h⟩
  | succ k ih =>
    rw [comingTurns_succ, List.replicate_succ, List.cons.injEq] at hk
    obtain ⟨host, hk⟩ := hk
    have coming : comingTurns k (statusReadState (drawTurn s).2) = comingTurns k (drawTurn s).2 :=
      comingTurns_congr k rfl rfl
    rw [run_succ_of_next (h.step_of_host host), ← polledState_succ h.flag]
    exact ih h.after_draw.after_statusRead (coming.trans hk)

/-- The engine is an enabled master with its outputs, no flag is left over from an exchange unread, and `steps` are left
of the host's program (40_register_access.md R115, 42_driver_operations.md R169). -/
structure ReadyAt (s : State) (steps : List HostStep) : Prop extends IdleAt s steps where
  master : isMaster s = true
  sck : lineDirAt s s.params.sck = .out
  mosi : lineDirAt s s.params.mosi = .out
  flag : statusTC s.status = false ∨ s.armed = true

/-- The state once the exchange of `b` has begun, and the host is past its write. -/
def begunState (b : Byte) (s : State) : State :=
  advance (startExchange b (clearIfArmed (endOp (encode (.wrData b)) .none s)))

theorem begunState_eq (b : Byte) (s : State) : begunState b s = { s with
      status := if s.armed then s.status &&& 0x7F#8 else s.status
      armed := false
      txs := b
      xcfg := liveCfg s.ctrl s.status
      busy := true
      hist := s.hist ++ [.op (encode (.wrData b)) .none, .start b (liveCfg s.ctrl s.status) s.lines]
      result := .none
      hpc := s.hpc + 1 } := by
  rw [begunState, startExchange_clearIfArmed, endOp_hist, List.append_assoc]
  rfl

/-- The write of the byte exchange begins it, and the host polls (40_register_access.md R115). -/
theorem ReadyAt.step_wrData {s : State} {p : Params} {b : Byte} {rest : List HostStep}
    (h : ReadyAt s (asmStep p 0 (.wrData b) :: .poll :: rest)) :
    step s = .next (begunState b s) ∧ Polling (begunState b s) := by
  obtain ⟨hen, hmstr⟩ := Bool.and_eq_true_iff.1 h.master
  have hx : exec (.wrData b) s = .next _ :=
    perform_of_clear h.live (by simp [h.idle, hen, hmstr, h.sck, h.mosi]) _
  have hs : step s = .next (begunState b s) := by
    rw [h.step_assemble, asmInstr, hx]
    rfl
  have flag : statusTC (begunState b s).status = false := by
    have cleared := statusTC_clearIfArmed (endOp (encode (.wrData b)) .none s)
    have left : (!s.armed && statusTC s.status) = false := by
      obtain e | e := h.flag <;> simp [e]
    exact cleared.trans left
  have todo : (begunState b s).prog.drop (begunState b s).hpc = .poll :: rest := by
    rw [begunState_eq]
    exact drop_advance h.todo
  exact ⟨hs, step_next_live hs, rfl, flag, fetch_of_drop todo⟩

/-- When the engine moves, the exchange completes, and the next iteration of the poll sees it (R130, R170). -/
theorem Polling.run_completion {s : State} (h : Polling s) (hd : (drawTurn s).1 = .engine) :
    Host.Core.run core 2 s = .next (advance (statusReadState (complete (drawTurn s).2))) := by
  rw [run_succ_of_next (step_of_engine_drawn h.live h.busy (Prod.ext hd rfl)),
    run_succ_of_next h.after_draw.step_complete]
  rfl

theorem exec_rdData_of_idle {s : State} {i : Byte} (hl : isLive s = true) (hb : s.busy = false) (hrx : s.rxb = some i) :
    exec .rdData s = .next (clearIfArmed (endOp (encode .rdData) (.byte i) s)) := by
  rw [exec, execRdData, perform_of_clear hl (by simp [hb, hrx]), hrx]
  rfl

/-- The state just before the completion of an exchange of `b` that `k` status reads found unfinished. -/
def beforeCompletion (k : Nat) (b : Byte) (s : State) : State :=
  afterTurns 1 (polledState k (begunState b s))

/-- The byte that the peripheral answers in that exchange (40_register_access.md R130). -/
def receivedByte (k : Nat) (b : Byte) (s : State) : Byte := (drawByte (beforeCompletion k b s)).1

/-- The state when the poll has ended, before the `RD_DATA`. -/
def flaggedState (k : Nat) (b : Byte) (s : State) : State :=
  advance (statusReadState (complete (beforeCompletion k b s)))

/-- The state after the byte exchange, its result bound to `r` (42_driver_operations.md R169). -/
def exchangedState (k : Nat) (b : Byte) (r : Option Var) (s : State) : State :=
  advance (bindResult r
    (clearIfArmed (endOp (encode .rdData) (.byte (receivedByte k b s)) (flaggedState k b s))))

/-- The history just before the completion. -/
def unfinishedHist (k : Nat) (b : Byte) (s : State) : List Event :=
  s.hist ++ [Event.op (encode (.wrData b)) .none, Event.start b (liveCfg s.ctrl s.status) s.lines] ++
    List.replicate k (statusReadEvent (begunState b s))

theorem beforeCompletion_eq (k : Nat) (b : Byte) (s : State) : beforeCompletion k b s = { afterTurns (k + 1) s with
      status := (begunState b s).status
      armed := false
      txs := b
      xcfg := liveCfg s.ctrl s.status
      busy := true
      hist := unfinishedHist k b s
      result := if k = 0 then .none else .byte (statusRead (begunState b s).status)
      hpc := s.hpc + 1 } := by
  have turns := afterTurns_afterTurns k 1 s
  simp only [afterTurns, State.mk.injEq, true_and] at turns
  simp only [beforeCompletion, polledState, unfinishedHist, afterTurns, begunState_eq, turns]

theorem statusPutTC_false_true (st : Byte) : statusPutTC false (statusPutTC true st) = statusPutTC false st := by
  revert st; decide

theorem statusPutTC_false_idem (st : Byte) : statusPutTC false (statusPutTC false st) = statusPutTC false st := by
  revert st; decide

theorem statusPutTC_false_begun (b : Byte) (s : State) :
    statusPutTC false (begunState b s).status = statusPutTC false s.status := by
  rw [begunState_eq, ← statusPutTC_false]
  cases s.armed
  · rfl
  · exact statusPutTC_false_idem s.status

theorem flaggedState_eq (k : Nat) (b : Byte) (s : State) : flaggedState k b s = { afterTurns (k + 1) s with
      status := statusPutTC true (begunState b s).status
      busy := false
      txs := b
      rxb := some (receivedByte k b s)
      armed := true
      xcfg := liveCfg s.ctrl s.status
      hist := unfinishedHist k b s ++
        [.done b (receivedByte k b s), statusReadEvent (complete (beforeCompletion k b s))]
      result := .byte (statusRead (statusPutTC true (begunState b s).status))
      hpc := s.hpc + 2
      rxInputs := s.rxInputs.drop 1 } := by
  simp only [flaggedState, statusReadState, complete, statusReadEvent, receivedByte, completeWith, endOp, emit, advance]
  simp [beforeCompletion_eq, afterTurns]

theorem bindResult_of_byte {s : State} {i : Byte} (h : s.result = .byte i) (r : Option Var) :
    bindResult r s = { s with vars := r.elim s.vars fun x => insertVar x (i.setWidth 32) s.vars } := by
  have value : resultInt s.result = some (i.setWidth 32) := congrArg resultInt h
  unfold bindResult
  rw [value]
  cases r <;> rfl

theorem exchangedState_eq (k : Nat) (b : Byte) (r : Option Var) (s : State) :
    exchangedState k b r s = { afterTurns (k + 1) s with
      status := statusPutTC false s.status
      busy := false
      txs := b
      rxb := some (receivedByte k b s)
      armed := false
      xcfg := liveCfg s.ctrl s.status
      hist := unfinishedHist k b s ++ [.done b (receivedByte k b s),
        statusReadEvent (complete (beforeCompletion k b s)), .op (encode .rdData) (.byte (receivedByte k b s))]
      result := .byte (receivedByte k b s)
      hpc := s.hpc + 3
      vars := r.elim s.vars fun x => insertVar x ((receivedByte k b s).setWidth 32) s.vars
      rxInputs := s.rxInputs.drop 1 } := by
  have cleared : statusPutTC false (statusPutTC true (begunState b s).status) = statusPutTC false s.status :=
    (statusPutTC_false_true _).trans (statusPutTC_false_begun b s)
  rw [exchangedState, bindResult_of_byte (i := receivedByte k b s) (by simp), clearIfArmed_endOp, clearIfArmed_eq,
    flaggedState_eq]
  simp [advance, endOp, emit, afterTurns, ← statusPutTC_false, cleared]

section
variable (k : Nat) (b : Byte) (r : Option Var) (s : State)

@[simp] theorem exchanged_ctrl : (exchangedState k b r s).ctrl = s.ctrl := by
  rw [exchangedState_eq]; rfl
@[simp] theorem exchanged_status : (exchangedState k b r s).status = statusPutTC false s.status := by
  rw [exchangedState_eq]
@[simp] theorem exchanged_busy : (exchangedState k b r s).busy = false := by
  rw [exchangedState_eq]
@[simp] theorem exchanged_txs : (exchangedState k b r s).txs = b := by
  rw [exchangedState_eq]
@[simp] theorem exchanged_rxb : (exchangedState k b r s).rxb = some (receivedByte k b s) := by
  rw [exchangedState_eq]
@[simp] theorem exchanged_armed : (exchangedState k b r s).armed = false := by
  rw [exchangedState_eq]
@[simp] theorem exchanged_xcfg : (exchangedState k b r s).xcfg = liveCfg s.ctrl s.status := by
  rw [exchangedState_eq]
@[simp] theorem exchanged_lines : (exchangedState k b r s).lines = s.lines := by
  rw [exchangedState_eq]; rfl
@[simp] theorem exchanged_turns : (exchangedState k b r s).turns = s.turns.drop (k + 1) := by
  rw [exchangedState_eq]; rfl
@[simp] theorem exchanged_draws : (exchangedState k b r s).draws = s.draws + (k + 1 - s.turns.length) := by
  rw [exchangedState_eq]; rfl
@[simp] theorem exchanged_rxInputs : (exchangedState k b r s).rxInputs = s.rxInputs.drop 1 := by
  rw [exchangedState_eq]

end

/-- The exchange runs to its end, in `k + 4` steps (R169). -/
theorem ReadyAt.runsTo_xchg {k : Nat} {s : State} {p : Params} {b : Byte} {r : Option Var} {rest : List HostStep}
    (h : ReadyAt s (xchgSteps p r b ++ rest)) (hk : comingTurns (k + 1) s = exchangeTurns k) :
    RunsTo (k + 4) 3 s (exchangedState k b r s) rest ∧ ReadyAt (exchangedState k b r s) rest := by
  obtain ⟨hs, polling⟩ := h.step_wrData
  have coming : comingTurns (k + 1) (begunState b s) = exchangeTurns k := by
    rw [comingTurns_congr (s := s) (k + 1) (by rw [begunState_eq]) (by rw [begunState_eq]), hk]
  obtain ⟨hosts, engine⟩ := comingTurns_split coming List.length_replicate
  obtain ⟨polls, polled⟩ := polling.run_polledState hosts
  have turn : (drawTurn (polledState k (begunState b s))).1 = .engine := by
    have last : comingTurns 1 (polledState k (begunState b s)) = [.engine] :=
      (comingTurns_congr 1 (s := afterTurns k (begunState b s)) (t := polledState k _) rfl rfl).trans engine
    exact (List.cons.inj last).1
  have completes := polled.run_completion turn
  rw [drawTurn_eq_afterTurns] at completes
  have flagged : Host.Core.run core (1 + (k + 2)) s = .next (flaggedState k b s) := by
    rw [Nat.add_comm, run_succ_of_next hs, run_add polls]
    exact completes
  have read : IdleAt (flaggedState k b s) (.op r (assemble p 0 .rdData) :: rest) := by
    rw [flaggedState_eq]
    refine ⟨h.live, rfl, ?_⟩
    change s.prog.drop (s.hpc + 2) = _
    rw [← List.drop_drop, h.todo]
    rfl
  obtain ⟨reads, -⟩ := read.runsTo_assemble (exec_rdData_of_idle read.live read.idle (by rw [flaggedState_eq]))
    (by rw [clearIfArmed_busy, endOp_busy, read.idle])
  have ready : ReadyAt (exchangedState k b r s) rest := by
    refine ⟨reads.idleAt, ?_, ?_, ?_, .inl ?_⟩ <;> rw [exchangedState_eq]
    · exact h.master
    · exact h.sck
    · exact h.mosi
    · exact statusTC_putTC false s.status
  refine ⟨⟨?_, reads.idleAt, ?_, ?_, ?_⟩, ready⟩
  · have steps : k + 4 = 1 + (k + 2) + 1 := by omega
    rw [steps, run_add flagged]
    exact reads.run
  · rw [exchangedState_eq]
    rfl
  · rw [exchangedState_eq]
    rfl
  · rw [exchangedState_eq]

/-- The byte received is the peripheral's next input (log 4). -/
theorem receivedByte_of_input (k : Nat) (b : Byte) {s : State} {a : Byte} {is : List Byte} (h : s.rxInputs = a :: is) :
    receivedByte k b s = a := by
  have input : (beforeCompletion k b s).rxInputs = a :: is := by
    rw [beforeCompletion_eq]
    exact h
  rw [receivedByte, drawByte, input]

/-- With no input left, it is the peripheral's free value for the history before the completion (log 4). -/
theorem receivedByte_of_free (k : Nat) (b : Byte) {s : State} (h : s.rxInputs = []) :
    receivedByte k b s = Config.peripheral (unfinishedHist k b s) b (liveCfg s.ctrl s.status) := by
  have input : (beforeCompletion k b s).rxInputs = [] := by
    rw [beforeCompletion_eq]
    exact h
  rw [receivedByte, drawByte, input, beforeCompletion_eq]

/-- The exchange appends the byte it sent to the bytes sent. -/
theorem startBytes_exchanged (k : Nat) (b : Byte) (r : Option Var) (s : State) :
    startBytes (exchangedState k b r s).hist = startBytes s.hist ++ [b] := by
  rw [exchangedState_eq]
  simp [unfinishedHist, startBytes_append, statusReadEvent, startBytes_replicate_op, startBytes]

/-- The exchange appends the byte it received to the bytes received. -/
theorem doneBytes_exchanged (k : Nat) (b : Byte) (r : Option Var) (s : State) :
    doneBytes (exchangedState k b r s).hist = doneBytes s.hist ++ [receivedByte k b s] := by
  rw [exchangedState_eq]
  simp [unfinishedHist, doneBytes_append, statusReadEvent, doneBytes_replicate_op, doneBytes]

/-- The exchange binds the byte received. -/
theorem getVar_exchanged_same (k : Nat) (b : Byte) (x : Var) (s : State) :
    getVar x (exchangedState k b (some x) s) = (receivedByte k b s).setWidth 32 := by
  rw [exchangedState_eq]
  exact lookupVar_insertVar_same x _ s.vars

/-- The exchange leaves every other variable. -/
theorem getVar_exchanged_other (k : Nat) (b : Byte) {x y : Var} (h : y ≠ x) (s : State) :
    getVar y (exchangedState k b (some x) s) = getVar y s := by
  rw [exchangedState_eq]
  exact lookupVar_insertVar_other h _ s.vars

/-- The exchange takes the turns of its status reads and of its completion. -/
theorem comingTurns_exchanged (n j k : Nat) (b : Byte) (r : Option Var) (s : State) :
    comingTurns n (afterTurns j (exchangedState k b r s)) = comingTurns n (afterTurns (k + 1 + j) s) := by
  rw [← afterTurns_afterTurns]
  exact comingTurns_congr n (by simp [afterTurns]) (by simp [afterTurns])

/-! ## The 24-bit transfer -/

/-- A list of inputs taken one by one, as far as there are any. -/
theorem take_three_of_heads {l : List Byte} {a b c : Byte} (ha : ∀ x xs, l = x :: xs → a = x)
    (hb : ∀ x xs, l.drop 1 = x :: xs → b = x) (hc : ∀ x xs, l.drop 2 = x :: xs → c = x) :
    l.take 3 = [a, b, c].take l.length := by
  match l with
  | [] => rfl
  | [x] => rw [ha x _ rfl]; rfl
  | [x, y] => rw [ha x _ rfl, hb y _ rfl]; rfl
  | x :: y :: z :: l => rw [ha x _ rfl, hb y _ rfl, hc z _ rfl]; simp

/-- Host arithmetic binds its variable and leaves the block as it is (00_scope.md R16, log 24). -/
theorem IdleAt.runsTo_compute {s : State} {x : Var} {e : Expr} {rest : List HostStep}
    (h : IdleAt s (.compute x e :: rest)) :
    ∃ t, RunsTo 1 1 s t rest ∧ SameBlock s t ∧ t.rxInputs = s.rxInputs ∧ getVar x t = evalExpr s e := by
  have hs : step s = perform s [] (advance (setVar x (evalExpr s e) s)) :=
    (step_of_idle h.live h.idle).trans (hostTurn_of_fetch (fetch_of_drop h.todo))
  rw [perform_of_clear h.live (by simp)] at hs
  exact ⟨_, h.runsTo_of_step hs h.idle rfl, ⟨rfl, rfl, rfl, rfl, rfl⟩, rfl, getVar_setVar_same x _ s⟩

/-- The state after the first two exchanges of a 24-bit transfer (42_driver_operations.md R171). -/
def halfwayState (k2 k1 : Nat) (v : HostInt) (s : State) : State :=
  exchangedState k1 (wordByte v 1) (some varR1) (exchangedState k2 (wordByte v 2) (some varR2) s)

/-- The state after its three exchanges. -/
def transferredState (k2 k1 k0 : Nat) (v : HostInt) (s : State) : State :=
  exchangedState k0 (wordByte v 0) (some varR0) (halfwayState k2 k1 v s)

theorem xfer24Steps_append (p : Params) (r : Var) (v : HostInt) (rest : List HostStep) :
    xfer24Steps p r v ++ rest = xchgSteps p (some varR2) (wordByte v 2) ++
      (xchgSteps p (some varR1) (wordByte v 1) ++
        (xchgSteps p (some varR0) (wordByte v 0) ++ .compute r joinExpr :: rest)) := by
  simp only [xfer24Steps, List.append_assoc, List.singleton_append]

/-- The three exchanges run one after the other, each with its part of the schedule. -/
theorem ReadyAt.runsTo_transfer {k2 k1 k0 : Nat} {s : State} {p : Params} {v : HostInt} {rest : List HostStep}
    (h : ReadyAt s (xchgSteps p (some varR2) (wordByte v 2) ++
      (xchgSteps p (some varR1) (wordByte v 1) ++ (xchgSteps p (some varR0) (wordByte v 0) ++ rest))))
    (hk : comingTurns ((k2 + 1) + (k1 + 1) + (k0 + 1)) s =
      exchangeTurns k2 ++ exchangeTurns k1 ++ exchangeTurns k0) :
    RunsTo ((k2 + 4) + (k1 + 4) + (k0 + 4)) 9 s (transferredState k2 k1 k0 v s) rest := by
  obtain ⟨hk, hk0⟩ := comingTurns_split hk (by simp)
  obtain ⟨hk2, hk1⟩ := comingTurns_split hk (by simp)
  rw [← Nat.add_zero (k2 + 1), ← comingTurns_exchanged _ 0 k2 (wordByte v 2) (some varR2), afterTurns_zero] at hk1
  rw [← Nat.add_zero (k1 + 1), ← comingTurns_exchanged _ _ k2 (wordByte v 2) (some varR2),
    ← comingTurns_exchanged _ 0 k1 (wordByte v 1) (some varR1), afterTurns_zero] at hk0
  obtain ⟨runs2, ready1⟩ := h.runsTo_xchg hk2
  obtain ⟨runs1, ready0⟩ := ready1.runsTo_xchg hk1
  obtain ⟨runs0, -⟩ := ready0.runsTo_xchg hk0
  exact (runs2.trans runs1).trans runs0

theorem startBytes_transferred (k2 k1 k0 : Nat) (v : HostInt) (s : State) :
    startBytes (transferredState k2 k1 k0 v s).hist =
      startBytes s.hist ++ [wordByte v 2, wordByte v 1, wordByte v 0] := by
  simp [transferredState, halfwayState, startBytes_exchanged]

theorem doneBytes_transferred (k2 k1 k0 : Nat) (v : HostInt) (s : State) :
    doneBytes (transferredState k2 k1 k0 v s).hist = doneBytes s.hist ++
      [receivedByte k2 (wordByte v 2) s,
        receivedByte k1 (wordByte v 1) (exchangedState k2 (wordByte v 2) (some varR2) s),
        receivedByte k0 (wordByte v 0) (halfwayState k2 k1 v s)] := by
  simp [transferredState, halfwayState, doneBytes_exchanged]

/-- The block after the three exchanges: as the last of them leaves it. -/
theorem viewOf_transferred (k2 k1 k0 : Nat) (v : HostInt) (s : State) :
    viewOf (transferredState k2 k1 k0 v s) = { viewOf s with
      status := statusPutTC false s.status
      busy := false
      txs := wordByte v 0
      rxb := some (receivedByte k0 (wordByte v 0) (halfwayState k2 k1 v s))
      armed := false
      xcfg := liveCfg s.ctrl s.status } := by
  simp [viewOf, transferredState, halfwayState, statusPutTC_false_idem]

theorem rxInputs_transferred (k2 k1 k0 : Nat) (v : HostInt) (s : State) :
    (transferredState k2 k1 k0 v s).rxInputs = s.rxInputs.drop 3 := by
  simp [transferredState, halfwayState]

/-- The bytes received are the peripheral's inputs, in order and as far as there are any (log 4). -/
theorem receivedBytes_of_inputs (k2 k1 k0 : Nat) (v : HostInt) (s : State) :
    s.rxInputs.take 3 =
      [receivedByte k2 (wordByte v 2) s,
        receivedByte k1 (wordByte v 1) (exchangedState k2 (wordByte v 2) (some varR2) s),
        receivedByte k0 (wordByte v 0) (halfwayState k2 k1 v s)].take s.rxInputs.length := by
  refine take_three_of_heads (fun a is h => ?_) (fun a is h => ?_) (fun a is h => ?_)
  · exact receivedByte_of_input k2 _ h
  · exact receivedByte_of_input k1 _ ((exchanged_rxInputs ..).trans h)
  · refine receivedByte_of_input k0 _ (Eq.trans ?_ h)
    simp [halfwayState]

/-- The reassembled value after the three exchanges (R174). -/
theorem evalExpr_transferred (k2 k1 k0 : Nat) (v : HostInt) (s : State) :
    (evalExpr (transferredState k2 k1 k0 v s) joinExpr).toNat =
      (receivedByte k2 (wordByte v 2) s).toNat * 2 ^ 16 +
        (receivedByte k1 (wordByte v 1) (exchangedState k2 (wordByte v 2) (some varR2) s)).toNat * 2 ^ 8 +
        (receivedByte k0 (wordByte v 0) (halfwayState k2 k1 v s)).toNat := by
  refine evalExpr_joinExpr ?_ ?_ ?_
  · rw [transferredState, getVar_exchanged_other _ _ (by decide), halfwayState, getVar_exchanged_other _ _ (by decide),
      getVar_exchanged_same]
  · rw [transferredState, getVar_exchanged_other _ _ (by decide), halfwayState, getVar_exchanged_same]
  · rw [transferredState, getVar_exchanged_same]

end Sys2Proof.Machine
end

section
/-!
SUPPORT. Two programs in lock step (42_driver_operations.md R171, R172): what no operation reads of the host's side,
programs that match step by step, and runs of them.
-/

namespace Sys2Proof.Machine

/-! ## A state with another host side -/

/-- The state with another host program, index and variables (00_scope.md R16). -/
def withHost (p : List HostStep) (n : Nat) (vs : List (Var × HostInt)) (s : State) : State :=
  { s with prog := p, hpc := n, vars := vs }

section
variable (p : List HostStep) (n : Nat) (vs : List (Var × HostInt)) (s : State)

/-- Whether an operation stops does not depend on the host's side. -/
theorem perform_withHost {t t' : State} (ht : t' = withHost p n vs t) (cs : List (Bool × Stop)) :
    perform (withHost p n vs s) cs t' = andThen (perform s cs t) (withHost p n vs) := by
  subst ht
  have live : isLive (withHost p n vs s) = isLive s := rfl
  unfold perform
  rw [live]
  split
  · exact firstStop_andThen _ t cs
  · rfl

theorem clearIfArmed_withHost : clearIfArmed (withHost p n vs s) = withHost p n vs (clearIfArmed s) := by
  have armed : (withHost p n vs s).armed = s.armed := rfl
  unfold clearIfArmed
  rw [armed]
  split <;> rfl

theorem observeLevel_withHost (l : LineId) :
    observeLevel l (withHost p n vs s) = ((observeLevel l s).1, withHost p n vs (observeLevel l s).2) := by
  have drives : drivesLatch (withHost p n vs s) l = drivesLatch s l := rfl
  have inputs : (withHost p n vs s).levelInputs = s.levelInputs := rfl
  unfold observeLevel drawLevel
  rw [drives, inputs]
  split
  · rfl
  · split <;> rfl

/-- No operation reads the host's side, and each leaves it as it is. -/
theorem exec_withHost (i : Instr) : exec i (withHost p n vs s) = andThen (exec i s) (withHost p n vs) := by
  cases i
  case wrData v =>
    exact perform_withHost p n vs s (congrArg (startExchange v) (clearIfArmed_withHost p n vs (endOp _ _ s))) _
  case rdData => exact perform_withHost p n vs s (clearIfArmed_withHost p n vs (endOp _ _ s)) _
  case lineGet l =>
    refine perform_withHost p n vs s ?_ _
    rw [observeLevel_withHost]
    rfl
  all_goals exact perform_withHost p n vs s (by rfl) _

theorem performWord_withHost (w : OpWord) :
    performWord w (withHost p n vs s) = andThen (performWord w s) (withHost p n vs) := by
  unfold performWord
  split
  · exact exec_withHost p n vs s _
  · exact perform_withHost p n vs s rfl _

theorem drawTurn_withHost : drawTurn (withHost p n vs s) = ((drawTurn s).1, withHost p n vs (drawTurn s).2) := by
  have turns : (withHost p n vs s).turns = s.turns := rfl
  unfold drawTurn
  rw [turns]
  split <;> rfl

theorem complete_withHost : complete (withHost p n vs s) = withHost p n vs (complete s) := by
  have inputs : (withHost p n vs s).rxInputs = s.rxInputs := rfl
  unfold complete drawByte
  rw [inputs]
  split <;> rfl

end

/-! ## Programs in lock step -/

/-- The steps left of a write-only program and of one that keeps its results: the same operations, in the latter bound
to variables, and at its end host arithmetic (42_driver_operations.md R171, R172). -/
inductive Matching : List HostStep → List HostStep → Prop where
  | done : Matching [] []
  | arithmetic (x : Var) (e : Expr) : Matching [] [.compute x e]
  | op {ts us : List HostStep} (w : OpWord) (dst : Option Var) (h : Matching ts us) :
      Matching (.op none w :: ts) (.op dst w :: us)
  | poll {ts us : List HostStep} (h : Matching ts us) : Matching (.poll :: ts) (.poll :: us)

theorem Matching.xchg {ts us : List HostStep} (h : Matching ts us) (p : Params) (x : Var) (b : Byte) :
    Matching (xchgSteps p none b ++ ts) (xchgSteps p (some x) b ++ us) :=
  .op _ none (.poll (.op _ (some x) h))

/-- `tx24` matches `xfer24` (R172). -/
theorem matching_tx24_xfer24 (p : Params) (r : Var) (v : HostInt) : Matching (tx24Steps p v) (xfer24Steps p r v) := by
  have last : Matching [] [.compute r joinExpr] := .arithmetic r joinExpr
  have steps := ((last.xchg p varR0 (wordByte v 0)).xchg p varR1 (wordByte v 1)).xchg p varR2 (wordByte v 2)
  simpa only [tx24Steps, xfer24Steps, List.append_assoc, List.append_nil] using steps

/-- Two states in lock step: they differ at most in the host's side, and the steps left match. -/
def LockStep (a b : State) : Prop :=
  ∃ p n vs, b = withHost p n vs a ∧ Matching (a.prog.drop a.hpc) (p.drop n)

/-- Outcomes in lock step: next states in lock step, or the same stop. -/
inductive OutLockStep : Out → Out → Prop where
  | next {a b : State} (h : LockStep a b) : OutLockStep (.next a) (.next b)
  | fault (f : Fault) : OutLockStep (.fault f) (.fault f)
  | refused (r : Refusal) : OutLockStep (.refused r) (.refused r)

/-- Lock step survives the same outcome of the block, if the host work after it keeps it. -/
theorem OutLockStep.andThen {o : Out} {p : List HostStep} {n : Nat} {vs : List (Var × HostInt)} {f g : State → State}
    (h : ∀ t, o = .next t → LockStep (f t) (g (withHost p n vs t))) :
    OutLockStep (andThen o f) (andThen (andThen o (withHost p n vs)) g) := by
  cases o with
  | next t => exact .next (h t rfl)
  | fault r => exact .fault r
  | refused r => exact .refused r

/-! ## One step of two programs in lock step -/

section
variable {p : List HostStep} {n : Nat} {vs : List (Var × HostInt)} {a t : State}

/-- States that a step of the block leaves in lock step, the host's side kept. -/
theorem LockStep.of_kept (hprog : t.prog = a.prog) (hpc : t.hpc = a.hpc)
    (h : Matching (a.prog.drop a.hpc) (p.drop n)) : LockStep t (withHost p n vs t) :=
  ⟨p, n, vs, rfl, by rw [hprog, hpc]; exact h⟩

/-- Both hosts advance, and what is left of their programs matches. -/
theorem LockStep.of_advance {g h : HostStep} {ts us : List HostStep} (hprog : t.prog = a.prog) (hpc : t.hpc = a.hpc)
    (ha : a.prog.drop a.hpc = g :: ts) (hb : p.drop n = h :: us) (hm : Matching ts us) :
    LockStep (advance t) (withHost p (n + 1) vs (advance t)) := by
  refine ⟨p, n + 1, vs, rfl, ?_⟩
  have left : (advance t).prog.drop (advance t).hpc = ts := by
    rw [advance_prog, advance_hpc, hprog, hpc]
    exact drop_advance ha
  have left' : p.drop (n + 1) = us := drop_advance (s := withHost p n vs t) hb
  rwa [left, left']

/-- Binding a result changes the variables alone. -/
theorem advance_bindResult_withHost (dst : Option Var) :
    advance (bindResult dst (withHost p n vs t)) =
      withHost p (n + 1) (bindResult dst (withHost p n vs t)).vars (advance t) := by
  unfold bindResult
  split <;> rfl

/-- The poll ends in both states or goes on in both: it tests the status read alone. -/
theorem pollNext_withHost_cases (p : List HostStep) (n : Nat) (vs : List (Var × HostInt)) (t : State) :
    (pollNext t = advance t ∧ pollNext (withHost p n vs t) = withHost p (n + 1) vs (advance t)) ∨
      (pollNext t = t ∧ pollNext (withHost p n vs t) = withHost p n vs t) := by
  have result : (withHost p n vs t).result = t.result := rfl
  unfold pollNext
  rw [result]
  split
  · split
    · exact .inl ⟨rfl, rfl⟩
    · exact .inr ⟨rfl, rfl⟩
  · exact .inr ⟨rfl, rfl⟩
  · exact .inr ⟨rfl, rfl⟩

theorem hostTurn_of_done {s : State} (hl : isLive s = true) (h : s.prog.drop s.hpc = []) : hostTurn s = .next s := by
  have none : fetch s = none := by rw [fetch, h]; rfl
  rw [hostTurn, none]
  exact perform_of_clear hl (by simp) s

end

theorem LockStep.hostTurn {a b : State} (hl : isLive a = true) (h : LockStep a b) :
    OutLockStep (hostTurn a) (hostTurn b) := by
  obtain ⟨p, n, vs, rfl, hm⟩ := h
  have hm0 := hm
  generalize ha : a.prog.drop a.hpc = ts at hm
  generalize hb : p.drop n = us at hm
  have hl' : isLive (withHost p n vs a) = true := hl
  have hb' : (withHost p n vs a).prog.drop (withHost p n vs a).hpc = us := hb
  cases hm with
  | done =>
    rw [hostTurn_of_done hl ha, hostTurn_of_done hl' hb']
    exact .next (.of_kept rfl rfl hm0)
  | arithmetic x e =>
    rw [hostTurn_of_done hl ha, hostTurn_of_fetch (fetch_of_drop hb'), runHostStep, perform_of_clear hl' (by simp)]
    refine .next ⟨p, n + 1, _, rfl, ?_⟩
    have left : p.drop (n + 1) = [] := drop_advance (s := withHost p n vs a) hb
    rw [ha, left]
    exact .done
  | op w dst hm =>
    rw [hostTurn_of_fetch (fetch_of_drop ha), hostTurn_of_fetch (fetch_of_drop hb'), runHostStep, runHostStep,
      performWord_withHost]
    refine .andThen fun t ht => ?_
    obtain ⟨i, -, hi⟩ := performWord_next ht
    have host := exec_keeps_host hi
    rw [advance_bindResult_withHost]
    exact .of_advance host.prog host.hpc ha hb hm
  | poll hm =>
    rw [hostTurn_of_fetch (fetch_of_drop ha), hostTurn_of_fetch (fetch_of_drop hb'), runHostStep, runHostStep,
      exec_withHost]
    refine .andThen fun t ht => ?_
    have host := exec_keeps_host ht
    obtain ⟨e, e'⟩ | ⟨e, e'⟩ := pollNext_withHost_cases p n vs t <;> rw [e, e']
    · exact .of_advance host.prog host.hpc ha hb hm
    · exact .of_kept host.prog host.hpc hm0

theorem LockStep.step {a b : State} (h : LockStep a b) : OutLockStep (step a) (step b) := by
  obtain ⟨p, n, vs, rfl, hm⟩ := h
  cases hl : isLive a with
  | false =>
    rw [step_of_marked hl, step_of_marked (s := withHost p n vs a) hl]
    exact .fault _
  | true =>
    cases hb : a.busy with
    | false =>
      rw [step_of_idle hl hb, step_of_idle (s := withHost p n vs a) hl hb]
      exact LockStep.hostTurn hl ⟨p, n, vs, rfl, hm⟩
    | true =>
      have drawn := drawTurn_withHost p n vs a
      cases hd : (drawTurn a).1 with
      | engine =>
        rw [hd] at drawn
        rw [step_of_engine_drawn hl hb (Prod.ext hd rfl), step_of_engine_drawn (s := withHost p n vs a) hl hb drawn,
          complete_withHost]
        exact .next (.of_kept (by simp [complete]) (by simp [complete]) hm)
      | host =>
        rw [hd] at drawn
        rw [step_of_host_drawn hl hb (Prod.ext hd rfl), step_of_host_drawn (s := withHost p n vs a) hl hb drawn]
        exact LockStep.hostTurn ((isLive_drawTurn a).trans hl) (.of_kept (by simp) (by simp) hm)

/-- Two states in lock step stay so at every number of steps, or stop alike. -/
theorem LockStep.run {a b : State} (h : LockStep a b) (k : Nat) :
    OutLockStep (Host.Core.run core k a) (Host.Core.run core k b) := by
  induction k generalizing a b with
  | zero => exact .next h
  | succ k ih =>
    have hs : OutLockStep (Host.Core.step core a) (Host.Core.step core b) := h.step
    simp only [Host.Core.run]
    generalize Host.Core.step core a = o at hs ⊢
    generalize Host.Core.step core b = o' at hs ⊢
    cases hs with
    | next h => exact ih h
    | fault f => exact .fault f
    | refused r => exact .refused r

end Sys2Proof.Machine
end

section
/-!
PROOF. The obligations on the driver's sequences (42_driver_operations.md), each from the lemmas above.
-/

namespace Sys2Proof.Machine

/-- Settles O37: of what a step appends only a `Start` event is tested, and its snapshot shows the asserted line. -/
theorem exchangesBeganWhileAssertedAreBracketed : Obligations.ExchangesBeganWhileAssertedAreBracketed := by
  intro cs s t hcs hs h
  obtain ⟨-, ⟨-, b, ht⟩ | ⟨i, s0, u, hs0, hu, ht⟩ | ht⟩ := step_block h
  · rw [ht.hist, completeWith_hist, bracketed_append, hs]
    rfl
  · have asserted : lineAt s0 cs = { dir := .out, latch := .low } := (lineAt_congr hs0.lines cs).trans hcs
    rw [ht.hist, exec_hist hu, bracketed_append, hs0.hist, hs, bracketed_exec_events asserted]
    rfl
  · rw [ht.hist, hs]

/-- Settles O42: the word's fields are those of the masked mode and divider, whose low bits the masks keep. -/
theorem controlWordPacksModeAndDivider : Obligations.ControlWordPacksModeAndDivider := by
  rintro mode div c rfl
  obtain ⟨-, cpol, cpha, rate, fixed⟩ := ctrlWord_fields (maskMode mode) (maskDiv div)
  rw [maskMode_getLsbD mode (by decide)] at cpol cpha
  exact ⟨ctrlWord_toNat mode div, cpol, cpha, rate.trans (maskDiv_toNat_mod div), fixed⟩

/-- Settles O50: the bytes do not overlap, so the value is their sum. -/
theorem reassemblyJoinsTheThreeBytes : Obligations.ReassemblyJoinsTheThreeBytes := by
  intro s b2 b1 b0 h2 h1 h0
  have value := evalExpr_joinExpr h2 h1 h0
  have := b2.isLt
  have := b1.isLt
  have := b0.isLt
  refine ⟨value, by omega, fun v e2 e1 e0 => eq_low24_of_wordBytes ?_⟩
  rw [value, e2, e1, e0]

/-- Settles O43: the lines are written first, so that the configuration word is admitted, and then the registers. -/
theorem configureLeavesItsConfiguration : Obligations.ConfigureLeavesItsConfiguration := by
  intro s cs mode div rest hl hb hwf hcs htodo
  obtain ⟨t, runs, view, lines⟩ := IdleAt.runsTo_configure ⟨hl, hb, htodo⟩ hwf hcs
  simp only [viewOf, registersConfigured, BlockView.mk.injEq] at view
  obtain ⟨hctrl, hstatus, -, htxs, hrxb, harmed, -, -⟩ := view
  refine ⟨t, runs.run, ?_, ?_, ?_, harmed, hrxb, htxs, runs.idleAt.idle, runs.idleAt.live, runs.hpc,
    fun l => congrFun lines l⟩
  · rw [hctrl, ctrlWord_toNat]
  · rw [hstatus]
    exact statusDBL_putDBL _ _
  · rw [hstatus, statusPutDBL_getLsbD _ _ (by decide)]

/-- Settles O44: the first step's line is absent; and during an exchange the clock line is an engine line. -/
theorem configureFaultsWhereItsStepsDo : Obligations.ConfigureFaultsWhereItsStepsDo := by
  intro s cs mode div rest hl htodo
  refine ⟨fun hb hcs => ?_, fun hb hwf hcs he hturns => ?_⟩
  · have start : IdleAt s (asmStep s.params cs (.dir .cs .out) :: _) := ⟨hl, hb, htodo⟩
    obtain ⟨absent, -⟩ := lineDirSetsTheDirectionOrStopsInOrder cs .out s _ hl (lineDir_out_word cs)
    rw [start.step_assemble, asmInstr, lineIdOf, absent hcs, andThen_fault]
  · obtain ⟨-, hsck, -⟩ := lines_of_wf hwf
    exact BusyAt.run_configure ⟨hl, hb, htodo, hturns⟩ hsck ((hasLine_iff s cs).2 hcs) he

/-- Settles O45: lines and registers already configured are left as they are, but for the status read. -/
theorem configureRepeatedLeavesTheSameBlock : Obligations.ConfigureRepeatedLeavesTheSameBlock := by
  intro s cs mode div rest hl hb hwf hcs htodo
  have start : IdleAt s (configureSteps s.params cs mode div ++ (configureSteps s.params cs mode div ++ rest)) :=
    ⟨hl, hb, by rw [htodo]; simp [expandAll, expand]⟩
  obtain ⟨t, runs, view, lines⟩ := start.runsTo_configure hwf hcs
  have next := runs.idleAt
  rw [← runs.params] at next
  obtain ⟨u, runs', view', lines'⟩ :=
    next.runsTo_configure (by rw [runs.params, runs.count]; exact hwf) (by rw [runs.count]; exact hcs)
  rw [configuredLine_idem runs.params lines, ← lines] at lines'
  have kept : u.lines = t.lines :=
    lines_ext (by rw [runs.count]; exact (lines_of_wf hwf).1) runs'.count (congrFun lines')
  refine ⟨t, u, runs.run, (runs.trans runs').run, ?_⟩
  rw [view', kept]
  exact registersConfigured_idem mode div view

/-- Settles O46: the latch is written, and neither the direction nor `CTRL`, so the line drives what was written. -/
theorem beginAndEndDriveTheChipSelect : Obligations.BeginAndEndDriveTheChipSelect := by
  intro s cs rest q v hl hb hcs hfree hdir hq htodo
  have start : IdleAt s (asmStep s.params cs (.set .cs v) :: rest) := by
    obtain ⟨rfl, rfl⟩ | ⟨rfl, rfl⟩ := hq <;> exact ⟨hl, hb, htodo⟩
  obtain ⟨t, runs, hctrl, lines⟩ := start.runsTo_lineSet hcs
  have line : lineAt t cs = { dir := .out, latch := v } := by rw [lines, if_pos rfl, ← hdir]
  have drives : drivesLatch t cs = true := by
    rw [drivesLatch_iff, runs.params, isMaster, hctrl, line]
    exact ⟨rfl, hfree⟩
  obtain ⟨u, hu, level⟩ := exec_lineGet_of_latch runs.idleAt.live ((hasLine_iff t cs).2 (runs.count ▸ hcs)) drives
  rw [line] at level
  exact ⟨t, u, runs.run, runs.hpc, line, fun k hk => (lines k).trans (if_neg hk), hu, level⟩

/-- Settles O47: the flag read is the flag that the poll tests. -/
theorem pollEndsExactlyOnTheFlag : Obligations.PollEndsExactlyOnTheFlag := by
  intro s hl
  refine ⟨_, runHostStep_poll hl, ?_⟩
  change _ ∧ _ ∧ _ = if statusTC s.status then s.hpc + 1 else s.hpc
  cases statusTC s.status <;> exact ⟨rfl, rfl, rfl⟩

/-- Settles O48: the write begins the exchange, the poll outlasts it, and the read clears the flag the poll armed. -/
theorem byteExchangeReturnsThePeripheralsByte : Obligations.ByteExchangeReturnsThePeripheralsByte := by
  intro s r b rest k hl hb hm hsck hmosi hflag htodo hk
  have ready : ReadyAt s (xchgSteps s.params r (b.setWidth 8) ++ rest) := ⟨⟨hl, hb, htodo⟩, hm, hsck, hmosi, hflag⟩
  obtain ⟨runs, -⟩ := ready.runsTo_xchg hk
  refine ⟨_, receivedByte k (b.setWidth 8) s, runs.run, fun a is h => receivedByte_of_input k _ h,
    ⟨unfinishedHist k (b.setWidth 8) s, statusRead (complete (beforeCompletion k (b.setWidth 8) s)).status, ?_,
      receivedByte_of_free k _⟩,
    exchanged_txs .., exchanged_rxb .., ?_, exchanged_armed .., exchanged_busy .., exchanged_ctrl .., ?_,
    exchanged_lines .., runs.idleAt.live, runs.hpc, exchanged_turns .., exchanged_draws .., exchanged_rxInputs ..,
    startBytes_exchanged .., ?_⟩
  · rw [exchangedState_eq]
    rfl
  · rw [exchanged_status]
    exact statusTC_putTC false s.status
  · rw [exchanged_status]
    exact statusDBL_putTC false s.status
  · rintro x rfl
    exact getVar_exchanged_same k _ x s

/-- Settles O49: three exchanges one after the other, each with its part of the schedule, and the reassembly. -/
theorem transfer24SendsAndReturnsThreeBytes : Obligations.Transfer24SendsAndReturnsThreeBytes := by
  intro s r v rest k2 k1 k0 hl hb hm hsck hmosi hflag htodo hk
  rw [expand, xfer24Steps_append] at htodo
  have ready : ReadyAt s _ := ⟨⟨hl, hb, htodo⟩, hm, hsck, hmosi, hflag⟩
  have transfers := ready.runsTo_transfer hk
  obtain ⟨t, computes, block, hrx, hvar⟩ := transfers.idleAt.runsTo_compute
  have runs := transfers.trans computes
  have steps : k2 + 4 + (k1 + 4) + (k0 + 4) + 1 = k2 + k1 + k0 + 13 := by omega
  rw [steps] at runs
  have value := (congrArg BitVec.toNat hvar).trans (evalExpr_transferred k2 k1 k0 v s)
  have view := block.view.trans (viewOf_transferred k2 k1 k0 v s)
  simp only [viewOf, BlockView.mk.injEq] at view
  obtain ⟨hctrl, hstatus, hbusy, htxs, hrxb, harmed, -, hlines⟩ := view
  have byte2 : v.extractLsb' 16 8 = wordByte v 2 := (wordByte_eq_extractLsb' v 2).symm
  have byte1 : v.extractLsb' 8 8 = wordByte v 1 := (wordByte_eq_extractLsb' v 1).symm
  have byte0 : v.extractLsb' 0 8 = wordByte v 0 := (wordByte_eq_extractLsb' v 0).symm
  rw [byte2, byte1, byte0]
  refine ⟨t, _, _, _, runs.run, ?_, ?_, receivedBytes_of_inputs k2 k1 k0 v s, ?_, value, fun e2 e1 e0 => ?_, htxs, hrxb,
    ?_, harmed, hbusy, hctrl, ?_, hlines, runs.idleAt.live, runs.hpc⟩
  · rw [block.hist, startBytes_transferred]
  · rw [block.hist, doneBytes_transferred]
  · rw [hrx, rxInputs_transferred]
  · rw [e2, e1, e0] at value
    exact eq_low24_of_wordBytes value
  · rw [hstatus]
    exact statusTC_putTC false s.status
  · rw [hstatus]
    exact statusDBL_putTC false s.status

/-- Settles O51: the two programs run in lock step, and states in lock step have one block and one history. -/
theorem transmit24MatchesTransfer24 : Obligations.Transmit24MatchesTransfer24 := by
  intro s v r n
  have start : LockStep (loadProgram (tx24Steps s.params v) s) (loadProgram (xfer24Steps s.params r v) s) :=
    ⟨_, 0, s.vars, rfl, matching_tx24_xfer24 s.params r v⟩
  have runs := start.run n
  simp only [expand]
  generalize Host.Core.run core n (loadProgram (tx24Steps s.params v) s) = o at runs ⊢
  generalize Host.Core.run core n (loadProgram (xfer24Steps s.params r v) s) = o' at runs ⊢
  cases runs with
  | next h =>
    obtain ⟨p, n, vs, rfl, -⟩ := h
    exact ⟨rfl, rfl⟩
  | fault f => rfl
  | refused r => rfl

end Sys2Proof.Machine
end

section
/-!
SUPPORT. The stops of each operation read back: from a fault of a live machine, its reason and the condition that holds
(60_exceptions.md R203); from a refusal, the first condition that holds (R204, R205).
-/

namespace Sys2Proof.Machine

section

variable {s : State} {f : Fault}

/-! ## Faults of the register operations -/

theorem exec_wrCtrl_fault {v : Byte} (hl : isLive s = true) (h : exec (.wrCtrl v) s = .fault f) :
    s.busy = true ∧ f = .configWhileBusy (encode (.wrCtrl v)) ∨
    (ctrlMaster v = true ∧ lineDirAt s s.params.ss = .inp) ∧ f = .masterModeNotHeld (encode (.wrCtrl v)) := by
  simpa using perform_fault hl h

theorem exec_wrStatus_fault {v : Byte} (hl : isLive s = true) (h : exec (.wrStatus v) s = .fault f) :
    s.busy = true ∧ f = .configWhileBusy (encode (.wrStatus v)) := by
  simpa using perform_fault hl h

theorem exec_wrData_fault {v : Byte} (hl : isLive s = true) (h : exec (.wrData v) s = .fault f) :
    s.busy = true ∧ f = .writeCollision (encode (.wrData v)) ∨
    (ctrlEN s.ctrl = false ∨ ctrlMSTR s.ctrl = false) ∧ f = .unconfigured (encode (.wrData v)) ∨
    (lineDirAt s s.params.sck = .inp ∨ lineDirAt s s.params.mosi = .inp) ∧
      f = .engineLinesNotOutput (encode (.wrData v)) := by
  simpa using perform_fault hl h

theorem exec_rdData_fault (hl : isLive s = true) (h : exec .rdData s = .fault f) :
    s.busy = true ∧ f = .readWhileBusy (encode .rdData) ∨ s.rxb = none ∧ f = .rxEmpty (encode .rdData) := by
  simpa using perform_fault hl h

/-! ## Faults of the line operations -/

theorem isEngineLine_of_wireLine {l : LineId} (h : isWireLine s l = true) : isEngineLine s l = true :=
  Bool.or_eq_true_iff.2 (.inl h)

theorem exec_lineDir_fault {l : LineId} {d : Dir} (hl : isLive s = true) (h : exec (.lineDir l d) s = .fault f) :
    s.lines.length ≤ l.toNat ∧ f = .lineOutOfRange (encode (.lineDir l d)) ∨
    (isEngineLine s l = true ∧ s.busy = true) ∧ f = .lineConflictWhileBusy (encode (.lineDir l d)) ∨
    ((l = s.params.ss ∧ d = .inp) ∧ isMaster s = true) ∧ f = .masterModeNotHeld (encode (.lineDir l d)) := by
  simpa [hasLine_eq_false_iff] using perform_fault hl h

theorem exec_lineSet_fault {l : LineId} {v : Level} (hl : isLive s = true) (h : exec (.lineSet l v) s = .fault f) :
    s.lines.length ≤ l.toNat ∧ f = .lineOutOfRange (encode (.lineSet l v)) ∨
    (isWireLine s l = true ∧ s.busy = true) ∧ f = .lineConflictWhileBusy (encode (.lineSet l v)) := by
  simpa [hasLine_eq_false_iff] using perform_fault hl h

theorem exec_lineGet_fault {l : LineId} (hl : isLive s = true) (h : exec (.lineGet l) s = .fault f) :
    s.lines.length ≤ l.toNat ∧ f = .lineOutOfRange (encode (.lineGet l)) := by
  simpa [hasLine_eq_false_iff] using perform_fault hl h

/-! ## Refusals -/

/-- A list of conditions refuses only with a condition that holds. -/
theorem firstStop_refused {t : State} {cs : List (Bool × Stop)} {r : Refusal} (h : firstStop t cs = .refused r) :
    (true, .refuse r) ∈ cs := by
  induction cs with
  | nil => cases h
  | cons c rest ih =>
    obtain ⟨_ | _, e⟩ := c
    · exact List.mem_cons_of_mem _ (ih h)
    · cases e with
      | raise g => cases h
      | refuse q => cases h; exact List.mem_cons_self

/-- Only an operation of a live machine refuses, and only with a condition that holds. -/
theorem perform_refused {t : State} {cs : List (Bool × Stop)} {r : Refusal} (h : perform s cs t = .refused r) :
    isLive s = true ∧ (true, .refuse r) ∈ cs := by
  unfold perform at h
  split at h
  case isTrue hl => exact ⟨hl, firstStop_refused h⟩
  case isFalse => cases h

/-- The order bit refuses only where the enable bit does not (60_exceptions.md R204). -/
theorem exec_wrCtrl_refused {v : Byte} {r : Refusal} (h : exec (.wrCtrl v) s = .refused r) :
    ctrlIE v = true ∧ r = .interruptEnable (encode (.wrCtrl v)) ∨
    (ctrlIE v = false ∧ ctrlORD v = true) ∧ r = .lsbFirst (encode (.wrCtrl v)) := by
  rw [exec, execWrCtrl] at h
  obtain ⟨hl, hc⟩ := perform_refused h
  cases hie : ctrlIE v with
  | true =>
    rw [hie, perform_stop hl] at h
    cases h
    exact .inl ⟨rfl, rfl⟩
  | false =>
    rw [hie] at hc
    exact .inr (by simpa using hc)

end

end Sys2Proof.Machine
end

section
/-!
PROOF. The obligations on the tables of faults and refusals (60_exceptions.md), each from the lemmas above.
-/

namespace Sys2Proof.Machine

/-- Settles O30: a marked machine answers only the stuck fault, and a live one the fault of a condition that holds. -/
theorem faultsFollowTheTable : Obligations.FaultsFollowTheTable := by
  intro i s f h
  cases hl : isLive s with
  | false =>
    rw [exec_of_marked i hl] at h
    cases h
    rfl
  | true =>
    cases i with
    | wrCtrl v =>
      obtain ⟨hb, rfl⟩ | ⟨⟨hm, hss⟩, rfl⟩ := exec_wrCtrl_fault hl h
      · exact ⟨rfl, .inl ⟨v, rfl⟩, hb⟩
      · obtain ⟨hen, hmstr⟩ := Bool.and_eq_true_iff.1 hm
        exact ⟨rfl, .inl ⟨v, rfl, hen, hmstr, hss⟩⟩
    | rdCtrl => simp [exec_rdCtrl hl] at h
    | wrStatus v =>
      obtain ⟨hb, rfl⟩ := exec_wrStatus_fault hl h
      exact ⟨rfl, .inr ⟨v, rfl⟩, hb⟩
    | rdStatus => simp [exec_rdStatus hl] at h
    | wrData v =>
      obtain ⟨hc, rfl⟩ | ⟨hc, rfl⟩ | ⟨hc, rfl⟩ := exec_wrData_fault hl h <;>
        exact ⟨rfl, ⟨v, rfl⟩, hc⟩
    | rdData =>
      obtain ⟨hc, rfl⟩ | ⟨hc, rfl⟩ := exec_rdData_fault hl h <;>
        exact ⟨rfl, rfl, hc⟩
    | lineDir l d =>
      obtain ⟨hline, rfl⟩ | ⟨⟨hengine, hb⟩, rfl⟩ | ⟨⟨⟨rfl, rfl⟩, hm⟩, rfl⟩ := exec_lineDir_fault hl h
      · exact ⟨rfl, l, hline, .inl ⟨d, rfl⟩⟩
      · exact ⟨rfl, hb, l, hengine, .inl ⟨d, rfl⟩⟩
      · exact ⟨rfl, .inr ⟨rfl, hm⟩⟩
    | lineSet l v =>
      obtain ⟨hline, rfl⟩ | ⟨⟨hwire, hb⟩, rfl⟩ := exec_lineSet_fault hl h
      · exact ⟨rfl, l, hline, .inr (.inl ⟨v, rfl⟩)⟩
      · exact ⟨rfl, hb, l, isEngineLine_of_wireLine hwire, .inr ⟨v, rfl⟩⟩
    | lineGet l =>
      obtain ⟨hline, rfl⟩ := exec_lineGet_fault hl h
      exact ⟨rfl, l, hline, .inr (.inr rfl)⟩

/-- Settles O31: of the nine operations only `WR_CTRL` has a condition that refuses. -/
theorem refusalsFollowTheTable : Obligations.RefusalsFollowTheTable := by
  intro i s r h
  cases i with
  | wrCtrl v =>
    obtain ⟨hie, rfl⟩ | ⟨⟨hie, hord⟩, rfl⟩ := exec_wrCtrl_refused h
    · exact ⟨v, rfl, .inl ⟨rfl, hie⟩⟩
    · exact ⟨v, rfl, .inr ⟨rfl, hie, hord⟩⟩
  | rdCtrl | wrStatus _ | rdStatus | wrData _ | rdData | lineDir _ _ | lineSet _ _ | lineGet _ =>
    obtain ⟨-, hc⟩ := perform_refused h
    simp at hc

end Sys2Proof.Machine
end

section
/-!
SUPPORT. What every line of the reset state holds (10_state.md R60), on every platform.
-/

namespace Sys2Proof.Machine

/-- Also an id past the last line reads as a reset line. -/
@[simp] theorem lineAt_resetFor (p : Params) (n : Nat) (l : LineId) : lineAt (State.resetFor p n) l = resetLine :=
  List.getElem?_getD_replicate_default_eq resetLine n l.toNat

/-- Every line is an input at reset, and an input drives no latch (10_state.md R61). -/
theorem drivesLatch_resetFor (p : Params) (n : Nat) (l : LineId) : drivesLatch (State.resetFor p n) l = false := by
  have input : (lineAt (State.resetFor p n) l).dir ≠ .out := by simp [resetLine]
  exact Bool.eq_false_iff.2 fun h => input ((drivesLatch_iff _ l).1 h).1

end Sys2Proof.Machine
end

section
/-!
PROOF. The obligation on reset (70_reset_and_hazards.md), from the lemmas above.
-/

namespace Sys2Proof.Machine

/-- Settles O33: the fields are those of the reset state, no line is an output, and `RD_DATA` finds no exchange in
progress and `RXB` empty. -/
theorem resetLeavesTheStatedValues : Obligations.ResetLeavesTheStatedValues := by
  rintro p n s rfl
  have live : isLive (State.resetFor p n) = true := rfl
  obtain ⟨-, stopsWhenEmpty, -⟩ := rdDataReturnsTheReceivedByteOrStops _ live
  exact ⟨rfl, rfl, rfl, rfl, rfl, rfl, rfl, rfl, List.length_replicate, rfl,
    fun l hl => List.getElem?_replicate_of_lt hl, drivesLatch_resetFor p n, stopsWhenEmpty rfl rfl⟩

end Sys2Proof.Machine
end
